-- ==== Sys2Proof/Word.lean ====
section
/-! DEFINITION. The word types of the block (00_scope.md R8, R9; 30_encoding.md R64). -/

namespace Sys2Proof

/-- A host register value: "every host register is 32 bits wide" (R8). -/
abbrev Word := BitVec 32

/-- A bus data byte, 8 bits (R8). -/
abbrev Byte := BitVec 8

/-- A RawTemperature, "a 16-bit two's-complement fixed-point value" (R8, R35). -/
abbrev RawTemp := BitVec 16

/-- A host access written as a 40-bit packet (R64). -/
abbrev Packet := BitVec 40

end Sys2Proof
end

