-- ==== Sys2Proof/Config.lean ====
section
/-! DEFINITION. The implementation parameters of 00_scope.md R7 and the free values of host programs.
Every type admits the legal values of R7 and no others, so a configuration is legal by construction. -/

namespace Sys2Proof

/-- `OVF_RCV`: the content of RCV after a receive that overflows (R7, D14). -/
inductive OvfRcv where
  | keepOld
  | takeNew
  | any
  deriving DecidableEq, Repr, Inhabited

/-- `DATA_NACK_POLICY`: what driver programs do on a data-phase NACK (R7, D17). -/
inductive DataNackPolicy where
  | ignore
  | abort
  deriving DecidableEq, Repr, Inhabited

/-- `IDLE_POLL_BOUND`: UNBOUNDED, or 1 .. 2^32 - 1 polls, held as the bound less one (R7, D16). -/
inductive PollBound where
  | unbounded
  | polls (lessOne : Fin 4294967295)
  deriving DecidableEq, Repr, Inhabited

/-- A name that a pseudo-instruction returns in place of a number (R73, R82, R83). -/
inductive StatusName where
  | ok
  | nack
  | busTimeout
  deriving DecidableEq, Repr, Inhabited

/-- The arithmetic and comparisons of host expressions (R72); a comparison gives 1 or 0. -/
inductive HostOp where
  | add | sub | mul | band | bor | bxor | shl | shr | eq | ne | lt | ge | and | or
  deriving DecidableEq, Repr

/-- The parameters the model takes as arguments (R7). `TICK_PERIOD` is "not modelled" there. -/
structure Config where
  /-- `BASE / 0x80`: BASE is any multiple of 0x80. -/
  basePage       : Nat
  sensorAddr     : BitVec 7
  regTemp        : Byte
  regConf        : Byte
  /-- `SETTLE_TICKS - 1`: SETTLE_TICKS is 1 .. 255. -/
  settleLessOne  : Fin 255
  ovfRcv         : OvfRcv
  idlePollBound  : PollBound
  dataNackPolicy : DataNackPolicy
  deriving DecidableEq, Repr, Inhabited

/-- The platform's configuration: no value is known of it (log 5). -/
opaque Config.platform : Config

/-- FREE VALUE: the integer a program computes with when it uses a status name as a number; no rule states it (log 13). -/
opaque Config.statusInt : StatusName → Int

/-- FREE VALUE: what a host temporary that nothing has assigned reads as; no rule states it (log 13). -/
opaque Config.unassigned : Nat → Int

/-- FREE VALUE: a shift or a bitwise operation of a host expression with a negative operand; R9 defines them for operands
of a width, and host integers have none (log 25). -/
opaque Config.hostOp : HostOp → Int → Int → Int

/-- FREE VALUE: whether a condition holds whose value is neither 0 nor 1; R72 gives conditions by comparisons (log 26). -/
opaque Config.hostTruth : Int → Bool

/-- The reference values of R7 over a given page for BASE (R7 leaves BASE OPEN). Used by tests only. -/
def Config.reference (basePage : Nat) : Config where
  basePage       := basePage
  sensorAddr     := 0x48
  regTemp        := 0x00
  regConf        := 0x01
  settleLessOne  := 0
  ovfRcv         := .any
  idlePollBound  := .unbounded
  dataNackPolicy := .ignore

end Sys2Proof
end

