-- ==== Sys2Proof/Syntax.lean ====
section
/-! DEFINITION. The instructions of the block (30_encoding.md R65, opcode_table.json) and the host programs and
pseudo-instructions built over them (R71 to R83), as syntax. -/

namespace Sys2Proof

/-- The 24 instructions: 12 reads, 12 writes of a 32-bit value (R65). -/
inductive Instr where
  | rdCon
  | rdStat
  | rdTrn
  | rdRcv
  | rdRaw
  | rdCel
  | rdUnit
  | rdConv
  | rdTick
  | rdTickcnt
  | rdIn
  | rdEvt
  | wrCon (d : Word)
  | wrConclr (d : Word)
  | wrConset (d : Word)
  | wrConinv (d : Word)
  | wrStat (d : Word)
  | wrStatclr (d : Word)
  | wrStatset (d : Word)
  | wrStatinv (d : Word)
  | wrTrn (d : Word)
  | wrRaw (d : Word)
  | wrUnit (d : Word)
  | wrTickcnt (d : Word)
  deriving DecidableEq, Repr

/-- The registers with a host read (R48). -/
inductive ReadReg where
  | con | stat | trn | rcv | raw | cel | unit | conv | tick | tickcnt | inp | evt
  deriving DecidableEq, Repr

/-- The registers and aliases with a host write (R48). -/
inductive WriteReg where
  | con | conclr | conset | coninv | stat | statclr | statset | statinv | trn | raw | unit | tickcnt
  deriving DecidableEq, Repr

/-- A host access at a byte address, before decoding (R49, R50): `write = none` is a read. -/
structure HostAccess where
  addr  : Nat
  /-- Width in bits. -/
  width : Nat
  write : Option Word
  deriving DecidableEq, Repr

/-- A host temporary (R72), numbered within one program body. -/
abbrev Tmp := Nat

/-- Host expressions over unbounded integers (R72). -/
inductive HostExpr where
  | lit (n : Int)
  | status (n : StatusName)
  | tmp (t : Tmp)
  | bin (op : HostOp) (a b : HostExpr)
  /-- `c ? a : b`, as in R77. -/
  | cond (c a b : HostExpr)
  deriving DecidableEq, Repr

/-- The pseudo-instructions (R73 to R83). -/
inductive Pseudo where
  | waitIdle
  | i2cStart
  | i2cRestart
  | i2cStop
  | i2cSend
  | i2cRecv
  | i2cAck
  | i2cNack
  | tickConsume
  | sensorConfigure
  | sensorRead
  deriving DecidableEq, Repr

/-- Host programs (R72): instructions, and constructs the block does not see. -/
inductive HostStmt where
  | nop
  | seq (a b : HostStmt)
  /-- `t <- RD REG`. -/
  | read (t : Tmp) (r : ReadReg)
  /-- `WR REG, value`. -/
  | write (r : WriteReg) (v : HostExpr)
  | assign (t : Tmp) (e : HostExpr)
  /-- `IF c THEN body END`. -/
  | ifThen (c : HostExpr) (body : HostStmt)
  /-- `DO body UNTIL c`. -/
  | doUntil (body : HostStmt) (c : HostExpr)
  /-- `RETURN v`. -/
  | ret (v : HostExpr)
  /-- `dest <- P(arg)`, or `P` with its result, if any, dropped. -/
  | call (dest : Option Tmp) (p : Pseudo) (arg : HostExpr)
  deriving DecidableEq, Repr

end Sys2Proof
end

