-- ==== Sys2Proof/WellFormed.lean ====
section
/-! DEFINITION. Which syntax is well formed. An instruction's operand is a 32-bit value by its type and every such
value is admitted (R66), so every term of `Instr` is well formed; the checks are on accesses and host programs. -/

namespace Sys2Proof

/-- Every 32-bit operand is admitted: bits a write does not use are "ignored" (R66), so no term is ill formed. -/
def Instr.wellFormed : Instr → Bool
  | .rdCon | .rdStat | .rdTrn | .rdRcv | .rdRaw | .rdCel | .rdUnit | .rdConv
  | .rdTick | .rdTickcnt | .rdIn | .rdEvt => true
  | .wrCon _ | .wrConclr _ | .wrConset _ | .wrConinv _ | .wrStat _ | .wrStatclr _ | .wrStatset _ | .wrStatinv _
  | .wrTrn _ | .wrRaw _ | .wrUnit _ | .wrTickcnt _ => true

/-- "Only naturally aligned 32-bit accesses are admitted" (R50). -/
def HostAccess.wellFormed (a : HostAccess) : Bool :=
  a.width == 32 && a.addr % 4 == 0

/-- Whether an expression that is a literal fits the unsigned width given. -/
def HostExpr.litFits (bits : Nat) : HostExpr → Bool
  | .lit n => decide (0 ≤ n) && decide (n < 2 ^ bits)
  | .status _ => false
  | .tmp _ | .bin _ _ _ | .cond _ _ _ => true

/-- A host program is well formed when every literal it writes is "a 32-bit number" (R71), every literal it sends is
"in 0..255" (R77), and no status name is written to a register. -/
def HostStmt.wellFormed : HostStmt → Bool
  | .nop | .read _ _ | .assign _ _ | .ret _ => true
  | .seq a b => a.wellFormed && b.wellFormed
  | .write _ v => v.litFits 32
  | .ifThen _ body => body.wellFormed
  | .doUntil body _ => body.wellFormed
  | .call _ p arg => p != .i2cSend || arg.litFits 8

end Sys2Proof
end

