-- ==== Sys2Proof/Decode.lean ====
section
/-! DEFINITION. Decoding and encoding of packets (30_encoding.md R64, R65, R69) and the assembly text of R71. -/

namespace Sys2Proof

/-- `RD REG` (R71). -/
def ReadReg.instr : ReadReg → Instr
  | .con => .rdCon
  | .stat => .rdStat
  | .trn => .rdTrn
  | .rcv => .rdRcv
  | .raw => .rdRaw
  | .cel => .rdCel
  | .unit => .rdUnit
  | .conv => .rdConv
  | .tick => .rdTick
  | .tickcnt => .rdTickcnt
  | .inp => .rdIn
  | .evt => .rdEvt

/-- `WR REG, value` (R71). -/
def WriteReg.instr : WriteReg → Word → Instr
  | .con, d => .wrCon d
  | .conclr, d => .wrConclr d
  | .conset, d => .wrConset d
  | .coninv, d => .wrConinv d
  | .stat, d => .wrStat d
  | .statclr, d => .wrStatclr d
  | .statset, d => .wrStatset d
  | .statinv, d => .wrStatinv d
  | .trn, d => .wrTrn d
  | .raw, d => .wrRaw d
  | .unit, d => .wrUnit d
  | .tickcnt, d => .wrTickcnt d

/-- Whether an instruction is a write (bit W of R64). -/
def Instr.isWrite : Instr → Bool
  | .rdCon | .rdStat | .rdTrn | .rdRcv | .rdRaw | .rdCel | .rdUnit | .rdConv
  | .rdTick | .rdTickcnt | .rdIn | .rdEvt => false
  | .wrCon _ | .wrConclr _ | .wrConset _ | .wrConinv _ | .wrStat _ | .wrStatclr _ | .wrStatset _ | .wrStatinv _
  | .wrTrn _ | .wrRaw _ | .wrUnit _ | .wrTickcnt _ => true

/-- The byte offset in the window that an instruction accesses (R48). -/
def Instr.offset : Instr → Nat
  | .rdCon | .wrCon _ => 0x00
  | .wrConclr _ => 0x04
  | .wrConset _ => 0x08
  | .wrConinv _ => 0x0C
  | .rdStat | .wrStat _ => 0x10
  | .wrStatclr _ => 0x14
  | .wrStatset _ => 0x18
  | .wrStatinv _ => 0x1C
  | .rdTrn | .wrTrn _ => 0x20
  | .rdRcv => 0x24
  | .rdRaw | .wrRaw _ => 0x40
  | .rdCel => 0x44
  | .rdUnit | .wrUnit _ => 0x48
  | .rdConv => 0x4C
  | .rdTick => 0x60
  | .rdTickcnt | .wrTickcnt _ => 0x64
  | .rdIn => 0x68
  | .rdEvt => 0x6C

/-- `BASE`, the host byte address of register offset 0 (R7, R48). -/
def Config.base (c : Config) : Nat := 0x80 * c.basePage

/-- `SETTLE_TICKS` (R7). -/
def Config.settleTicks (c : Config) : Nat := c.settleLessOne.val + 1

/-- Whether an address lies in the window `BASE` to `BASE + 0x7F` (R48). -/
def Config.inWindow (c : Config) (addr : Nat) : Bool :=
  decide (c.base ≤ addr) && decide (addr < c.base + 0x80)

/-- `OPB = packet[39:32]` (R65). -/
def Packet.opb (p : Packet) : BitVec 8 := p.extractLsb' 32 8

/-- `DATA = packet[31:0]` (R64). -/
def Packet.data (p : Packet) : Word := p.extractLsb' 0 32

/-- `W = packet[39]` (R64). -/
def Packet.isWrite (p : Packet) : Bool := p.getLsbD 39

/-- The reserved field `packet[38:37]`, "must be 00" (R64). -/
def Packet.rsv (p : Packet) : BitVec 2 := p.extractLsb' 37 2

/-- `IDX = packet[36:32]` (R64). -/
def Packet.idx (p : Packet) : BitVec 5 := p.extractLsb' 32 5

/-- The packet of a host access to word index `idx` (R64). -/
def Packet.mk (isWrite : Bool) (idx : BitVec 5) (data : Word) : Packet :=
  (BitVec.ofBool isWrite ++ 0#2 ++ idx) ++ data

/-- Why a packet is no instruction. -/
inductive DecodeError where
  /-- The opcode byte is not one of the 24 of R65 (R69). -/
  | reservedOpcode (opb : BitVec 8)
  deriving DecidableEq, Repr

/-- The instruction an opcode byte selects, over the packet's DATA; "DATA is never part of the selection" (R65). -/
def decodeFields (opb : BitVec 8) (d : Word) : Except DecodeError Instr :=
  match opb with
  | 0x00#8 => .ok .rdCon
  | 0x04#8 => .ok .rdStat
  | 0x08#8 => .ok .rdTrn
  | 0x09#8 => .ok .rdRcv
  | 0x10#8 => .ok .rdRaw
  | 0x11#8 => .ok .rdCel
  | 0x12#8 => .ok .rdUnit
  | 0x13#8 => .ok .rdConv
  | 0x18#8 => .ok .rdTick
  | 0x19#8 => .ok .rdTickcnt
  | 0x1A#8 => .ok .rdIn
  | 0x1B#8 => .ok .rdEvt
  | 0x80#8 => .ok (.wrCon d)
  | 0x81#8 => .ok (.wrConclr d)
  | 0x82#8 => .ok (.wrConset d)
  | 0x83#8 => .ok (.wrConinv d)
  | 0x84#8 => .ok (.wrStat d)
  | 0x85#8 => .ok (.wrStatclr d)
  | 0x86#8 => .ok (.wrStatset d)
  | 0x87#8 => .ok (.wrStatinv d)
  | 0x88#8 => .ok (.wrTrn d)
  | 0x90#8 => .ok (.wrRaw d)
  | 0x92#8 => .ok (.wrUnit d)
  | 0x99#8 => .ok (.wrTickcnt d)
  | other => .error (.reservedOpcode other)

/-- Decoding, total on every 40-bit packet (R65, R69). -/
def decode (p : Packet) : Except DecodeError Instr :=
  decodeFields p.opb p.data

/-- The opcode byte of an instruction (R65, the table read by rows). -/
def Instr.opb : Instr → BitVec 8
  | .rdCon => 0x00
  | .rdStat => 0x04
  | .rdTrn => 0x08
  | .rdRcv => 0x09
  | .rdRaw => 0x10
  | .rdCel => 0x11
  | .rdUnit => 0x12
  | .rdConv => 0x13
  | .rdTick => 0x18
  | .rdTickcnt => 0x19
  | .rdIn => 0x1A
  | .rdEvt => 0x1B
  | .wrCon _ => 0x80
  | .wrConclr _ => 0x81
  | .wrConset _ => 0x82
  | .wrConinv _ => 0x83
  | .wrStat _ => 0x84
  | .wrStatclr _ => 0x85
  | .wrStatset _ => 0x86
  | .wrStatinv _ => 0x87
  | .wrTrn _ => 0x88
  | .wrRaw _ => 0x90
  | .wrUnit _ => 0x92
  | .wrTickcnt _ => 0x99

/-- The DATA of an instruction's packet: the operand of a write; a read has "DATA written as 0" (R71). -/
def Instr.data : Instr → Word
  | .rdCon | .rdStat | .rdTrn | .rdRcv | .rdRaw | .rdCel | .rdUnit | .rdConv
  | .rdTick | .rdTickcnt | .rdIn | .rdEvt => 0
  | .wrCon d | .wrConclr d | .wrConset d | .wrConinv d | .wrStat d | .wrStatclr d | .wrStatset d | .wrStatinv d
  | .wrTrn d | .wrRaw d | .wrUnit d | .wrTickcnt d => d

/-- The packet of an instruction (R64, R65, R71). -/
def encode (i : Instr) : Packet := i.opb ++ i.data

/-- The instruction the decoder reads from a word numbered as the opcode table numbers it: packet bit k is bit k
(log 1). A word that does not fit 40 bits is no packet. -/
def decodeTableWord (nbits w : Nat) : Option Instr :=
  let v := w % 2 ^ nbits
  if v < 2 ^ 40 then
    match decode (BitVec.ofNat 40 v) with
    | .ok i => some i
    | .error _ => none
  else none

/-- The name of an instruction in the spec's text (R65, R71). -/
def Instr.name : Instr → String
  | .rdCon => "RD CON"
  | .rdStat => "RD STAT"
  | .rdTrn => "RD TRN"
  | .rdRcv => "RD RCV"
  | .rdRaw => "RD RAW"
  | .rdCel => "RD CEL"
  | .rdUnit => "RD UNIT"
  | .rdConv => "RD CONV"
  | .rdTick => "RD TICK"
  | .rdTickcnt => "RD TICKCNT"
  | .rdIn => "RD IN"
  | .rdEvt => "RD EVT"
  | .wrCon _ => "WR CON"
  | .wrConclr _ => "WR CONCLR"
  | .wrConset _ => "WR CONSET"
  | .wrConinv _ => "WR CONINV"
  | .wrStat _ => "WR STAT"
  | .wrStatclr _ => "WR STATCLR"
  | .wrStatset _ => "WR STATSET"
  | .wrStatinv _ => "WR STATINV"
  | .wrTrn _ => "WR TRN"
  | .wrRaw _ => "WR RAW"
  | .wrUnit _ => "WR UNIT"
  | .wrTickcnt _ => "WR TICKCNT"

/-- The assembly text of an instruction: `RD REG`, or `WR REG, value` with the value in hex (R71). -/
def Instr.asm (i : Instr) : String :=
  if i.isWrite then i.name ++ ", 0x" ++ String.ofList (Nat.toDigits 16 i.data.toNat) else i.name

end Sys2Proof
end

