-- ==== Sys2Proof/Machine/State.lean ====
section
/-! DEFINITION. The state of the block and of the agents around it (10_state.md R13 to R47), as plain data, and
the state right after reset (R47, R154). -/

namespace Sys2Proof.Machine

/-- CON, the control register: bits 0 to 5; bits 31:6 are reserved, read as 0 and are not stored (R15, R22). -/
structure Con where
  sen   : Bool
  rsen  : Bool
  pen   : Bool
  rcen  : Bool
  acken : Bool
  /-- Acknowledge value for the next master acknowledge: false = ACK, true = NACK (R21). -/
  ackdt : Bool
  deriving DecidableEq, Repr

/-- STAT, the status register; its reserved bits read 0 and are not stored (R23, R22). -/
structure Stat where
  tbf     : Bool
  rbf     : Bool
  s       : Bool
  p       : Bool
  i2cov   : Bool
  iwcol   : Bool
  trstat  : Bool
  /-- Acknowledge received for the last transmitted byte: false = ACK, true = NACK (R30). -/
  ackstat : Bool
  deriving DecidableEq, Repr

/-- EVT, the debounced event register; its reserved bits read 0 and are not stored (R42, R22). -/
structure Evt where
  evec  : Byte
  evtv  : Bool
  armed : Bool
  evov  : Bool
  deriving DecidableEq, Repr

/-- The unit held by UNIT[1:0]; code 3 is "never held" (R37). -/
inductive TempUnit where
  | celsius
  | kelvin
  | fahrenheit
  deriving DecidableEq, Repr

/-- A bus event of the trace (R44); an acknowledge is false for ACK, true for NACK. -/
inductive BusEvent where
  | start
  | restart
  | stop
  | tx (b : Byte) (a : Bool)
  | rx (b : Byte)
  | mack (a : Bool)
  deriving DecidableEq, Repr

/-- The model faults of R143, recorded in `faults` while the machine goes on. -/
inductive FaultReason where
  /-- A host access of width other than 32 bits or with `addr[1:0] != 0` (R50). -/
  | badAccess (addr width : Nat)
  /-- A packet whose opcode byte is not one of the 24 (R51). -/
  | reserved (packet : Packet)
  deriving DecidableEq, Repr

/-- The set of protocol marks, one flag for each mark of R144. -/
structure Marks where
  noTransaction : Bool
  dirMismatch   : Bool
  noMasterAck   : Bool
  noRxToAck     : Bool
  busHeldAtEnd  : Bool
  deriving DecidableEq, Repr

/-- The draws of one BUS step (R111, R112): only the ones its rule asks for are used. -/
structure BusDraw where
  /-- The slave's acknowledge: false = ACK, true = NACK (R111). -/
  ack      : Bool
  /-- The byte the slave sends (R112). -/
  byte     : Byte
  /-- The byte RCV takes after an overflow under OVF_RCV = ANY (R112). -/
  overflow : Byte
  deriving DecidableEq, Repr

/-- One agent step still to come, with its free inputs (R10, R11; log 2). -/
inductive AgentStep where
  /-- HOST: an access given as its packet (R64). -/
  | packet (p : Packet)
  /-- HOST: an access at a byte address (R49, R50). -/
  | access (a : HostAccess)
  /-- HOST: the next statement of the host program (R72). -/
  | host
  /-- BUS: completes the engine's pending operation (R106). -/
  | bus (d : BusDraw)
  /-- TICKSRC: one periodic tick (R133). -/
  | tick
  /-- PINS: the inputs change to the drawn value (R135). -/
  | pins (v : Byte)
  /-- A reset of the block (R154, R155). -/
  | reset
  deriving DecidableEq, Repr

/-- What a host temporary holds: an integer (R72), or a name a pseudo-instruction returned (R73, R82, R83). -/
inductive HostValue where
  | int (n : Int)
  | status (n : StatusName)
  deriving DecidableEq, Repr

/-- One active body of a host program: its temporaries, what is left to do, and the caller's temporary for its result. -/
structure Frame where
  temps : List (Tmp × HostValue)
  todo  : List HostStmt
  dest  : Option Tmp
  deriving DecidableEq, Repr

/-- Where the host's program stands (R72, R145). -/
inductive HostStatus where
  | noProgram
  | running (top : Frame) (callers : List Frame)
  | returned (v : Option HostValue)
  deriving DecidableEq, Repr

/-- Everything the spec gives the machine (R13, R43, R44, R45), and the host's side of it (log 2, 8, 11, 17). -/
structure State where
  con      : Con
  stat     : Stat
  /-- TRN[7:0] (R33). -/
  trn      : Byte
  /-- RCV[7:0] (R34). -/
  rcv      : Byte
  /-- RAW[15:0] (R35). -/
  raw      : RawTemp
  unit     : TempUnit
  /-- TICK.TICKF (R39). -/
  tickf    : Bool
  /-- TICKCNT (R40). -/
  tickcnt  : Word
  evt      : Evt
  /-- Acknowledge value latched when a master acknowledge starts (R43). -/
  ackl     : Bool
  /-- Consecutive all-released tick samples while not armed (R43). -/
  rel      : BitVec 8
  /-- The next accepted TRN write is an address byte (R43). -/
  xaddr    : Bool
  /-- R/W bit of the last address byte sent: true = read (R43). -/
  dir      : Bool
  /-- From a completed receive until the next master acknowledge starts (R43). -/
  mackp    : Bool
  /-- The bus events generated, oldest first (R44). -/
  trace    : List BusEvent
  /-- The set of model faults, no repeats, in order of first record (R44; log 10). -/
  faults   : List FaultReason
  marks    : Marks
  /-- The button and switch levels, environment state (R45). -/
  pins     : Byte
  /-- The value the last host read returned (log 8). -/
  readData : Option Word
  host     : HostStatus
  /-- The end of the host program's run has been passed (R145; log 17). -/
  ended    : Bool
  /-- The agent steps to come, the next one first (log 2). -/
  agenda   : List AgentStep
  deriving DecidableEq, Repr

/-- Why no step can be taken: stuck states, each safe (the model stops where no rule enables a step; log 3). -/
inductive Fault where
  /-- Raised by `step` when the agenda names no agent: no step is asked for. Safe. -/
  | nothingScheduled
  /-- Raised by a BUS step in mode IDLE: "in mode IDLE it has none" (R106). Safe. -/
  | busNotEnabled
  /-- Raised by a host-program step when no host program is running (R145). Safe. -/
  | hostNotRunning
  deriving DecidableEq, Repr

/-- Why an instruction has no meaning in the model. -/
inductive Refusal where
  /-- Raised by an arm of `exec` for an instruction not modelled yet; no arm raises it now. Safe. -/
  | notModelled (mnemonic : String)
  deriving DecidableEq, Repr

/-- CON after reset: 0x00000000 (R47). -/
def Con.reset : Con :=
  { sen := false, rsen := false, pen := false, rcen := false, acken := false, ackdt := false }

/-- STAT after reset: 0x00000000 (R47). -/
def Stat.reset : Stat :=
  { tbf := false, rbf := false, s := false, p := false, i2cov := false, iwcol := false, trstat := false,
    ackstat := false }

/-- EVT after reset: 0, not armed (R47). -/
def Evt.reset : Evt := { evec := 0, evtv := false, armed := false, evov := false }

/-- No mark recorded (R47). -/
def Marks.none : Marks :=
  { noTransaction := false, dirMismatch := false, noMasterAck := false, noRxToAck := false, busHeldAtEnd := false }

/-- The machine right after reset (R47, R154): UNIT is Celsius, everything else of the block 0, the model's trace,
faults and marks empty. `pins` is "not reset" there: 0 is a DESIGN CHOICE (log 7); `readData`, `host`, `ended` and
`agenda` are the model's own: DESIGN CHOICE (log 8, 17, 23). -/
def State.reset : State where
  con      := Con.reset
  stat     := Stat.reset
  trn      := 0
  rcv      := 0
  raw      := 0
  unit     := .celsius
  tickf    := false
  tickcnt  := 0
  evt      := Evt.reset
  ackl     := false
  rel      := 0
  xaddr    := false
  dir      := false
  mackp    := false
  trace    := []
  faults   := []
  marks    := Marks.none
  pins     := 0
  readData := none
  host     := .noProgram
  ended    := false
  agenda   := []

end Sys2Proof.Machine
end

