-- ==== Sys2Proof/Machine/Flags.lean ====
section
/-! DEFINITION. The status words the host reads, the idle predicate, the engine's mode and the flag tests
(10_state.md R15, R22, R23, R31, R32, R42, R46). -/

namespace Sys2Proof.Machine

/-- CON[5:0] (R15). -/
def Con.bits (c : Con) : BitVec 6 :=
  (BitVec.ofBool c.ackdt ++ BitVec.ofBool c.acken ++ BitVec.ofBool c.rcen ++ BitVec.ofBool c.pen ++
    BitVec.ofBool c.rsen ++ BitVec.ofBool c.sen : BitVec 6)

/-- CON[4:0], the command bits (R15). -/
def Con.commands (c : Con) : BitVec 5 := c.bits.extractLsb' 0 5

/-- The 32-bit register CON: `zext_32(CON[5:0])` (R86, R22). -/
def Con.word (c : Con) : Word := c.bits.zeroExtend 32

/-- The 32-bit register STAT, by the concatenation of R97. -/
def Stat.word (t : Stat) : Word :=
  (0#16 ++ BitVec.ofBool t.ackstat ++ BitVec.ofBool t.trstat ++ 0#6 ++ BitVec.ofBool t.iwcol ++
    BitVec.ofBool t.i2cov ++ 0#1 ++ BitVec.ofBool t.p ++ BitVec.ofBool t.s ++ 0#1 ++ BitVec.ofBool t.rbf ++
    BitVec.ofBool t.tbf : BitVec 32)

/-- The 32-bit register EVT, by the concatenation of R132. -/
def Evt.word (e : Evt) : Word :=
  (0#21 ++ BitVec.ofBool e.evov ++ BitVec.ofBool e.armed ++ BitVec.ofBool e.evtv ++ e.evec : BitVec 32)

/-- The code of a unit in UNIT[1:0] (R37). -/
def TempUnit.code : TempUnit → BitVec 2
  | .celsius => 0
  | .kelvin => 1
  | .fahrenheit => 2

/-- The unit a code selects; 3 selects none (R125). -/
def TempUnit.ofCode (code : BitVec 2) : Option TempUnit :=
  match code with
  | 0#2 => some .celsius
  | 1#2 => some .kelvin
  | 2#2 => some .fahrenheit
  | _ => none

/-- `idle() = (CON[4:0] == 0) and (STAT.TRSTAT == 0)` (R31). -/
def State.idle (s : State) : Bool :=
  s.con.commands == 0 && !s.stat.trstat

/-- The engine modes (R32). -/
inductive Mode where
  | idle
  | starting
  | restarting
  | stopping
  | txData
  | txAck
  | receiving
  | masterAck
  deriving DecidableEq, Repr

/-- The engine mode, "a function of CON and STAT, not separate state" (R32). In states the invariant of R32 rules out,
where several rows hold, the first of this list counts (log 9). -/
def State.mode (s : State) : Mode :=
  if s.idle then .idle
  else if s.con.sen then .starting
  else if s.con.rsen then .restarting
  else if s.con.pen then .stopping
  else if s.stat.trstat && s.stat.tbf then .txData
  else if s.stat.trstat then .txAck
  else if s.con.rcen then .receiving
  else .masterAck

/-- The number of 1 bits of a command request (R87). -/
def popcount (req : BitVec 5) : Nat :=
  (req.getLsbD 0).toNat + (req.getLsbD 1).toNat + (req.getLsbD 2).toNat + (req.getLsbD 3).toNat +
    (req.getLsbD 4).toNat

/-- Whether no mark is recorded: `marks = {}` (R144). -/
def Marks.empty (m : Marks) : Bool :=
  !m.noTransaction && !m.dirMismatch && !m.noMasterAck && !m.noRxToAck && !m.busHeldAtEnd

end Sys2Proof.Machine
end

