-- ==== Sys2Proof/Machine/Operands.lean ====
section
/-! DEFINITION. Operand assembly: the DATA bits each write uses (30_encoding.md R66), the four alias functions
(R87, R98), the address byte (R67), the RAW composite (R68), and the decode and convert functions (R117, R119). -/

namespace Sys2Proof.Machine

/-- The alias functions of the CON and STAT writes: whole, clear, set, invert (R87, R98). -/
inductive AliasFn where
  | whole
  | clr
  | set
  | inv
  deriving DecidableEq, Repr

/-- `f(old, x)` of R88 to R91 and R99 to R102. -/
def AliasFn.apply {w : Nat} (f : AliasFn) (old x : BitVec w) : BitVec w :=
  match f with
  | .whole => x
  | .clr => old &&& ~~~x
  | .set => old ||| x
  | .inv => old ^^^ x

/-- DATA[5:0], used by the CON writes (R66). -/
def conData (d : Word) : BitVec 6 := d.extractLsb' 0 6

/-- DATA[7:0], "the byte to send" (R66). -/
def trnData (d : Word) : Byte := d.extractLsb' 0 8

/-- DATA[15:0], a RawTemperature (R66). -/
def rawData (d : Word) : RawTemp := d.extractLsb' 0 16

/-- DATA[1:0], a unit code (R66). -/
def unitData (d : Word) : BitVec 2 := d.extractLsb' 0 2

/-- The address byte `(addr7 << 1) | rw` as the bit string {addr7, rw}, rw true for read (R67). -/
def addressByte (addr7 : BitVec 7) (rw : Bool) : Byte := addr7 ++ BitVec.ofBool rw

/-- `RAW = (hi << 8) | lo` as the bit string {hi, lo} (R68, R53). -/
def composeRaw (hi lo : Byte) : RawTemp := hi ++ lo

/-- The Decode function: the signed 12-bit value RAW[15:4], in 1/16 degree Celsius (R117). -/
def decodeTemp (r : RawTemp) : Int := (r.extractLsb' 4 12).toInt

/-- The Convert function, in 1/400 degree (R119). -/
def convert (n : Int) (u : TempUnit) : Int :=
  match u with
  | .celsius => 25 * n
  | .kelvin => 25 * n + 109260
  | .fahrenheit => 45 * n + 12800

/-- CEL = `sext_32(RAW[15:4])` (R36, R117). -/
def celWord (r : RawTemp) : Word := (r.extractLsb' 4 12).signExtend 32

/-- CONV = `Convert(Decode(RAW), UNIT) mod 2^32` (R126). -/
def convWord (r : RawTemp) (u : TempUnit) : Word := BitVec.ofInt 32 (convert (decodeTemp r) u)

end Sys2Proof.Machine
end

