-- ==== Sys2Proof/Machine/Ops.lean ====
section
/-! DEFINITION. The operations on the state that the meanings and the agents' steps share: what a read returns,
recording faults and marks, the trace, reset, the end of a run. The block takes no trap and has no return from one
(60_exceptions.md R140): raising a model fault is `recordFault`, and nothing is entered or saved. -/

namespace Sys2Proof.Machine

/-- The outcome of one step. -/
abbrev Result := Host.Outcome State Fault Refusal

/-- A read returns the value to the host (R66; log 8). -/
def State.respond (v : Word) (s : State) : State := { s with readData := some v }

/-- `raise Fault(reason)`: the fault joins the set and "the step does not change any register" (R10, R143). -/
def State.recordFault (f : FaultReason) (s : State) : State :=
  { s with faults := if f ∈ s.faults then s.faults else s.faults ++ [f] }

/-- The protocol marks by name (R144). -/
inductive Mark where
  | noTransaction
  | dirMismatch
  | noMasterAck
  | noRxToAck
  | busHeldAtEnd
  deriving DecidableEq, Repr

/-- The mark joins the set of marks when the condition holds. -/
def Marks.addIf (cond : Bool) (k : Mark) (m : Marks) : Marks :=
  match k with
  | .noTransaction => { m with noTransaction := m.noTransaction || cond }
  | .dirMismatch => { m with dirMismatch := m.dirMismatch || cond }
  | .noMasterAck => { m with noMasterAck := m.noMasterAck || cond }
  | .noRxToAck => { m with noRxToAck := m.noRxToAck || cond }
  | .busHeldAtEnd => { m with busHeldAtEnd := m.busHeldAtEnd || cond }

/-- `IF cond THEN mark k` (R10). -/
def State.markIf (cond : Bool) (k : Mark) (s : State) : State :=
  { s with marks := s.marks.addIf cond k }

/-- `IF MACKP == 1 THEN mark NO_MASTER_ACK; MACKP <- 0` (R92 to R95, R103). -/
def State.checkMasterAck (s : State) : State :=
  { s.markIf s.mackp .noMasterAck with mackp := false }

/-- `STAT.IWCOL <- 1`: a command or transmission is refused (R28, R87, R103). -/
def State.refuseWrite (s : State) : State := { s with stat.iwcol := true }

/-- `trace += e` (R10). -/
def State.emit (e : BusEvent) (s : State) : State := { s with trace := s.trace ++ [e] }

/-- A reset of the block (R154, R155): every piece of its state at the value of R47; the pins and the host's side are
not the block's and stay (log 16). -/
def State.resetBlock (s : State) : State :=
  { State.reset with
      pins := s.pins, readData := s.readData, host := s.host, ended := s.ended, agenda := s.agenda }

/-- Whether the host program "has performed its last instruction and returned" (R145). -/
def HostStatus.hasReturned : HostStatus → Bool
  | .returned _ => true
  | .noProgram => false
  | .running _ _ => false

/-- The end of a run (R145): at the first state in which the host program has returned and the engine is idle, the
run has ended, and S = 1 there records BUS_HELD_AT_END. -/
def State.closeRun (s : State) : State :=
  if s.host.hasReturned && s.idle && !s.ended then
    { s.markIf s.stat.s .busHeldAtEnd with ended := true }
  else s

/-- A function of the next state, where there is one. -/
def onNext (f : State → State) : Result → Result
  | .next s => .next (f s)
  | .fault r => .fault r
  | .refused r => .refused r

/-- Start a host program from its first statement (R72, R145; log 23). -/
def State.loadProgram (p : HostStmt) (s : State) : State :=
  { s with host := .running { temps := [], todo := [p], dest := none } [], ended := false }

end Sys2Proof.Machine
end

