-- ==== Sys2Proof/Machine/TickDebounce.lean ====
section
/-! DEFINITION. The accesses of the tick flag, the tick counter and the debouncer: TICK, TICKCNT, IN, EVT
(42_tick_debounce.md R128 to R132), and the debouncer's sampling (R134). -/

namespace Sys2Proof.Machine

/-- `RD TICK` (R128): returns the flag, counts it when set, clears it, in one step. -/
def execRdTick (s : State) : Result :=
  .next { s.respond ((BitVec.ofBool s.tickf).zeroExtend 32) with
            tickcnt := if s.tickf then s.tickcnt + 1 else s.tickcnt
            tickf := false }

/-- `RD TICKCNT` (R129). -/
def execRdTickcnt (s : State) : Result := .next (s.respond s.tickcnt)

/-- `RD IN` (R131). -/
def execRdIn (s : State) : Result := .next (s.respond (s.pins.zeroExtend 32))

/-- `RD EVT` (R132): returns EVT, clears EVTV, EVOV and EVEC; ARMED is "not changed". -/
def execRdEvt (s : State) : Result :=
  .next { s.respond s.evt.word with evt.evtv := false, evt.evov := false, evt.evec := 0 }

/-- `WR TICKCNT, d` (R130). -/
def execWrTickcnt (d : Word) (s : State) : Result := .next { s with tickcnt := d }

/-- DebounceSample while not armed (R134): REL + 1 is exact (R9; log 19). -/
def sampleUnarmed (settle : Nat) (v : Byte) (s : State) : State :=
  if v = 0 then
    if settle ≤ s.rel.toNat + 1 then { s with evt.armed := true, rel := 0 }
    else { s with rel := BitVec.ofNat 8 (s.rel.toNat + 1) }
  else { s with rel := 0 }

/-- DebounceSample while armed (R134): an event fires at a non-zero sample; with one waiting it is dropped. -/
def sampleArmed (v : Byte) (s : State) : State :=
  if v = 0 then s
  else if s.evt.evtv then { s with evt.evov := true, evt.armed := false, rel := 0 }
  else { s with evt.evec := v, evt.evtv := true, evt.armed := false, rel := 0 }

/-- `DebounceSample(s)` (R134), with SETTLE_TICKS = settle. -/
def debounceSample (settle : Nat) (v : Byte) (s : State) : State :=
  if s.evt.armed then sampleArmed v s else sampleUnarmed settle v s

end Sys2Proof.Machine
end

