-- ==== Sys2Proof/Machine/Environment.lean ====
section
/-! DEFINITION. The steps of the environment agents: the BUS steps (40_i2c_master.md R106 to R113), the tick (R133)
and the pins (R135). -/

namespace Sys2Proof.Machine

/-- BUS step in mode STARTING (R107). -/
def busStart (s : State) : State :=
  { s.emit .start with con.sen := false, stat.s := true, stat.p := false }

/-- BUS step in mode RESTARTING (R108). -/
def busRestart (s : State) : State :=
  { s.emit .restart with con.rsen := false, stat.s := true, stat.p := false }

/-- BUS step in mode STOPPING (R109). -/
def busStop (s : State) : State :=
  { s.emit .stop with con.pen := false, stat.s := false, stat.p := true }

/-- BUS step in mode TX_DATA: the byte has been shifted out (R110). -/
def busTxData (s : State) : State := { s with stat.tbf := false }

/-- BUS step in mode TX_ACK: the slave's acknowledge arrives (R111). -/
def busTxAck (ack : Bool) (s : State) : State :=
  { s.emit (.tx s.trn ack) with stat.trstat := false, stat.ackstat := ack }

/-- What RCV holds after a receive of `byte` (R112): with RBF = 1 the receive overflows and OVF_RCV decides. -/
def rcvAfter (ovf : OvfRcv) (d : BusDraw) (s : State) : Byte :=
  if s.stat.rbf then
    match ovf with
    | .keepOld => s.rcv
    | .takeNew => d.byte
    | .any => d.overflow
  else d.byte

/-- BUS step in mode RECEIVING: the byte arrives (R112). -/
def busReceive (ovf : OvfRcv) (d : BusDraw) (s : State) : State :=
  { s.emit (.rx d.byte) with
      con.rcen := false
      rcv := rcvAfter ovf d s
      stat.i2cov := s.stat.i2cov || s.stat.rbf
      stat.rbf := true
      mackp := true }

/-- BUS step in mode MASTER_ACK: the latched acknowledge is sent (R113). -/
def busMasterAck (s : State) : State :=
  { s.emit (.mack s.ackl) with con.acken := false }

/-- The BUS agent's step: exactly one in each mode but IDLE, which has none (R106). -/
def busStep (c : Config) (d : BusDraw) (s : State) : Result :=
  match s.mode with
  | .idle => .fault .busNotEnabled
  | .starting => .next (busStart s)
  | .restarting => .next (busRestart s)
  | .stopping => .next (busStop s)
  | .txData => .next (busTxData s)
  | .txAck => .next (busTxAck d.ack s)
  | .receiving => .next (busReceive c.ovfRcv d s)
  | .masterAck => .next (busMasterAck s)

/-- TICKSRC step (R133): TICKF is set before the inputs are sampled (R146). -/
def tickStep (c : Config) (s : State) : State :=
  debounceSample c.settleTicks s.pins { s with tickf := true }

/-- PINS step (R135). -/
def pinsStep (v : Byte) (s : State) : State := { s with pins := v }

end Sys2Proof.Machine
end

