-- ==== Sys2Proof/Machine/BusMaster.lean ====
section
/-! DEFINITION. The accesses of the bus master: CON and the commands it starts, STAT, TRN, RCV
(40_i2c_master.md R86 to R105). -/

namespace Sys2Proof.Machine

/-- The commands a CON write can start (R87). -/
inductive Command where
  | start
  | restart
  | stop
  | recv
  | ack
  deriving DecidableEq, Repr

/-- `CASE req OF` (R87): the command a request with one bit set asks for. -/
def Command.ofReq (req : BitVec 5) : Option Command :=
  match req with
  | 0x01#5 => some .start
  | 0x02#5 => some .restart
  | 0x04#5 => some .stop
  | 0x08#5 => some .recv
  | 0x10#5 => some .ack
  | _ => none

/-- StartCmd (R92). -/
def startCmd (s : State) : State :=
  { s.checkMasterAck with con.sen := true, xaddr := true }

/-- RestartCmd (R93). -/
def restartCmd (s : State) : State :=
  { s.checkMasterAck with con.rsen := true, xaddr := true }

/-- StopCmd (R94). -/
def stopCmd (s : State) : State :=
  { s.checkMasterAck with con.pen := true, xaddr := false }

/-- RecvCmd (R95). -/
def recvCmd (s : State) : State :=
  let s1 := s.markIf (!s.stat.s) .noTransaction
  let s2 := s1.markIf (s.stat.s && (s.xaddr || !s.dir)) .dirMismatch
  { s2.checkMasterAck with con.rcen := true }

/-- AckCmd (R96): ACKL takes ACKDT's value "after this write's ACKDT update". -/
def ackCmd (s : State) : State :=
  { s.markIf (!s.mackp) .noRxToAck with con.acken := true, ackl := s.con.ackdt, mackp := false }

/-- The command procedures by command (R87). -/
def startCommand (k : Command) (s : State) : State :=
  match k with
  | .start => startCmd s
  | .restart => restartCmd s
  | .stop => stopCmd s
  | .recv => recvCmd s
  | .ack => ackCmd s

/-- The command bits a CON write newly sets: `v[4:0] & ~old[4:0]` (R87). -/
def conRequest (f : AliasFn) (d : Word) (c : Con) : BitVec 5 :=
  (f.apply c.bits (conData d)).extractLsb' 0 5 &&& ~~~c.commands

/-- `CON.ACKDT <- v[5]` of a CON write (R87). -/
def conAckdt (f : AliasFn) (d : Word) (c : Con) : Bool :=
  (f.apply c.bits (conData d)).getLsbD 5

/-- The common procedure ConWrite(f, d) (R87): `idle()` is "evaluated on the state before this write"; a request with
one bit set has its row in `Command.ofReq`, so the last line is never reached. -/
def conWrite (f : AliasFn) (d : Word) (s : State) : State :=
  let req := conRequest f d s.con
  let s1 := { s with con.ackdt := conAckdt f d s.con }
  if req = 0 then s1
  else if 2 ≤ popcount req then s1.refuseWrite
  else if !s.idle then s1.refuseWrite
  else match Command.ofReq req with
    | some k => startCommand k s1
    | none => s1

/-- The common procedure StatWrite(f, d) (R98): only I2COV and IWCOL are written. -/
def statWrite (f : AliasFn) (d : Word) (s : State) : State :=
  let v := f.apply s.stat.word d
  { s with stat.i2cov := v.getLsbD 6, stat.iwcol := v.getLsbD 7 }

/-- The marks and the MACKP update of an accepted TRN write (R103). -/
def trnMarks (s : State) : State :=
  let s1 := s.markIf (!s.stat.s) .noTransaction
  let s2 := s1.markIf (s.stat.s && (!s.xaddr && s.dir)) .dirMismatch
  s2.checkMasterAck

/-- A TRN write (R103): refused with IWCOL unless the engine is idle; the first byte after a START or RESTART is the
address byte, whose bit 0 is DIR. -/
def trnWrite (d : Word) (s : State) : State :=
  if !s.idle then s.refuseWrite
  else
    { trnMarks s with
        trn := trnData d
        stat.tbf := true
        stat.trstat := true
        dir := if s.xaddr then d.getLsbD 0 else s.dir
        xaddr := false }

/-- `RD CON` (R86). -/
def execRdCon (s : State) : Result := .next (s.respond s.con.word)

/-- `RD STAT` (R97). -/
def execRdStat (s : State) : Result := .next (s.respond s.stat.word)

/-- `RD TRN` (R104). -/
def execRdTrn (s : State) : Result := .next (s.respond (s.trn.zeroExtend 32))

/-- `RD RCV` (R105): returns RCV and clears RBF. -/
def execRdRcv (s : State) : Result := .next { s.respond (s.rcv.zeroExtend 32) with stat.rbf := false }

/-- `WR CON, d` (R88). -/
def execWrCon (d : Word) (s : State) : Result := .next (conWrite .whole d s)

/-- `WR CONCLR, d` (R89). -/
def execWrConclr (d : Word) (s : State) : Result := .next (conWrite .clr d s)

/-- `WR CONSET, d` (R90). -/
def execWrConset (d : Word) (s : State) : Result := .next (conWrite .set d s)

/-- `WR CONINV, d` (R91). -/
def execWrConinv (d : Word) (s : State) : Result := .next (conWrite .inv d s)

/-- `WR STAT, d` (R99). -/
def execWrStat (d : Word) (s : State) : Result := .next (statWrite .whole d s)

/-- `WR STATCLR, d` (R100). -/
def execWrStatclr (d : Word) (s : State) : Result := .next (statWrite .clr d s)

/-- `WR STATSET, d` (R101). -/
def execWrStatset (d : Word) (s : State) : Result := .next (statWrite .set d s)

/-- `WR STATINV, d` (R102). -/
def execWrStatinv (d : Word) (s : State) : Result := .next (statWrite .inv d s)

/-- `WR TRN, d` (R103). -/
def execWrTrn (d : Word) (s : State) : Result := .next (trnWrite d s)

end Sys2Proof.Machine
end

