-- ==== Sys2Proof/Machine/Converter.lean ====
section
/-! DEFINITION. The accesses of the decoder and the unit converter: RAW, CEL, UNIT, CONV
(41_decoder_converter.md R121 to R127). CEL and CONV are functions of RAW and UNIT as they are at the read (R127). -/

namespace Sys2Proof.Machine

/-- `RD RAW` (R121). -/
def execRdRaw (s : State) : Result := .next (s.respond (s.raw.zeroExtend 32))

/-- `RD CEL` (R123). -/
def execRdCel (s : State) : Result := .next (s.respond (celWord s.raw))

/-- `RD UNIT` (R124). -/
def execRdUnit (s : State) : Result := .next (s.respond (s.unit.code.zeroExtend 32))

/-- `RD CONV` (R126). -/
def execRdConv (s : State) : Result := .next (s.respond (convWord s.raw s.unit))

/-- `WR RAW, d` (R122). -/
def execWrRaw (d : Word) (s : State) : Result := .next { s with raw := rawData d }

/-- `WR UNIT, d` (R125): code 3 "leaves UNIT unchanged". -/
def execWrUnit (d : Word) (s : State) : Result :=
  .next { s with unit := (TempUnit.ofCode (unitData d)).getD s.unit }

end Sys2Proof.Machine
end

