-- ==== Sys2Proof/Machine/Dispatch.lean ====
section
/-! DEFINITION. One arm per instruction (30_encoding.md R65). -/

namespace Sys2Proof.Machine

def exec (i : Instr) (s : State) : Host.Outcome State Fault Refusal :=
  match i with
  | .rdCon => Sys2Proof.Machine.execRdCon s
  | .rdStat => Sys2Proof.Machine.execRdStat s
  | .rdTrn => Sys2Proof.Machine.execRdTrn s
  | .rdRcv => Sys2Proof.Machine.execRdRcv s
  | .rdRaw => Sys2Proof.Machine.execRdRaw s
  | .rdCel => Sys2Proof.Machine.execRdCel s
  | .rdUnit => Sys2Proof.Machine.execRdUnit s
  | .rdConv => Sys2Proof.Machine.execRdConv s
  | .rdTick => Sys2Proof.Machine.execRdTick s
  | .rdTickcnt => Sys2Proof.Machine.execRdTickcnt s
  | .rdIn => Sys2Proof.Machine.execRdIn s
  | .rdEvt => Sys2Proof.Machine.execRdEvt s
  | .wrCon d => Sys2Proof.Machine.execWrCon d s
  | .wrConclr d => Sys2Proof.Machine.execWrConclr d s
  | .wrConset d => Sys2Proof.Machine.execWrConset d s
  | .wrConinv d => Sys2Proof.Machine.execWrConinv d s
  | .wrStat d => Sys2Proof.Machine.execWrStat d s
  | .wrStatclr d => Sys2Proof.Machine.execWrStatclr d s
  | .wrStatset d => Sys2Proof.Machine.execWrStatset d s
  | .wrStatinv d => Sys2Proof.Machine.execWrStatinv d s
  | .wrTrn d => Sys2Proof.Machine.execWrTrn d s
  | .wrRaw d => Sys2Proof.Machine.execWrRaw d s
  | .wrUnit d => Sys2Proof.Machine.execWrUnit d s
  | .wrTickcnt d => Sys2Proof.Machine.execWrTickcnt d s

end Sys2Proof.Machine
end

