-- ==== Sys2Proof/Machine/Pseudo.lean ====
section
/-! DEFINITION. The pseudo-instructions as host programs (30_encoding.md R73 to R83), and the example programs of
95_test_vectors.md part 3. Each body numbers its temporaries from 0; an argument arrives in temporary 0. -/

namespace Sys2Proof.Machine

/-- Host expressions, short forms. -/
def ebin (op : HostOp) (a b : HostExpr) : HostExpr := .bin op a b

/-- A literal. -/
def elit (n : Int) : HostExpr := .lit n

/-- A temporary. -/
def etmp (t : Tmp) : HostExpr := .tmp t

/-- `e[i]`: bit i of e. -/
def ebit (e : HostExpr) (i : Nat) : HostExpr := ebin .band (ebin .shr e (elit i)) (elit 1)

/-- A sequence of statements. -/
def seqOf : List HostStmt → HostStmt
  | [] => .nop
  | [a] => a
  | a :: rest => .seq a (seqOf rest)

/-- A pseudo-instruction with no argument, its result dropped. -/
def run (p : Pseudo) : HostStmt := .call none p (elit 0)

/-- `t <- P(arg)`. -/
def runTo (t : Tmp) (p : Pseudo) (arg : HostExpr) : HostStmt := .call (some t) p arg

/-- `(c & 0x1F) != 0 or (s & 0x4000) != 0` over the values read from CON and STAT (R73). -/
def busySeen (c s : Tmp) : HostExpr :=
  ebin .or (ebin .ne (ebin .band (etmp c) (elit 0x1F)) (elit 0)) (ebin .ne (ebin .band (etmp s) (elit 0x4000)) (elit 0))

/-- `(c & 0x1F) == 0 and (s & 0x4000) == 0` (R73). -/
def idleSeen (c s : Tmp) : HostExpr :=
  ebin .and (ebin .eq (ebin .band (etmp c) (elit 0x1F)) (elit 0)) (ebin .eq (ebin .band (etmp s) (elit 0x4000)) (elit 0))

/-- `IF IDLE_POLL_BOUND != UNBOUNDED and n >= IDLE_POLL_BOUND THEN RETURN BusTimeout END` (R73). -/
def pollLimit (b : PollBound) (n : Tmp) : HostStmt :=
  match b with
  | .unbounded => .nop
  | .polls k => .ifThen (ebin .ge (etmp n) (elit (k.val + 1))) (.ret (.status .busTimeout))

/-- WAIT_IDLE (R73): temporaries n = 0, c = 1, s = 2. -/
def waitIdle (b : PollBound) : HostStmt :=
  seqOf
    [ .assign 0 (elit 0),
      .doUntil
        (seqOf
          [ .read 1 .con,
            .read 2 .stat,
            .assign 0 (ebin .add (etmp 0) (elit 1)),
            .ifThen (busySeen 1 2) (pollLimit b 0) ])
        (idleSeen 1 2) ]

/-- I2C_START (R74). -/
def i2cStart : HostStmt := seqOf [run .waitIdle, .write .conset (elit 0x1), run .waitIdle]

/-- I2C_RESTART (R75). -/
def i2cRestart : HostStmt := seqOf [run .waitIdle, .write .conset (elit 0x2), run .waitIdle]

/-- I2C_STOP (R76). -/
def i2cStop : HostStmt := seqOf [run .waitIdle, .write .conset (elit 0x4), run .waitIdle]

/-- I2C_SEND(b) (R77): b is temporary 0, s is 1. -/
def i2cSend : HostStmt :=
  seqOf
    [ run .waitIdle, .write .trn (etmp 0), run .waitIdle, .read 1 .stat,
      .ret (.cond (ebin .eq (ebit (etmp 1) 15) (elit 0)) (elit 1) (elit 0)) ]

/-- I2C_RECV (R78): r is temporary 0; the result is r[7:0]. -/
def i2cRecv : HostStmt :=
  seqOf
    [ run .waitIdle, .write .conset (elit 0x8), run .waitIdle, .write .statclr (elit 0x40), .read 0 .rcv,
      .ret (ebin .band (etmp 0) (elit 0xFF)) ]

/-- I2C_ACK (R79). -/
def i2cAck : HostStmt := seqOf [run .waitIdle, .write .conclr (elit 0x20), .write .conset (elit 0x10)]

/-- I2C_NACK (R80). -/
def i2cNack : HostStmt := seqOf [run .waitIdle, .write .conset (elit 0x20), .write .conset (elit 0x10)]

/-- TICK_CONSUME (R81). -/
def tickConsume : HostStmt := seqOf [.read 0 .tick, .ret (ebit (etmp 0) 0)]

/-- The address byte `(SENSOR_ADDR << 1) | rw` as a literal of the program (R67, R82, R83). -/
def sensorByte (c : Config) (rw : Bool) : HostExpr := elit (addressByte c.sensorAddr rw).toNat

/-- `DO (I2C_START or I2C_RESTART); a <- I2C_SEND(address byte) UNTIL a == 1` (R82, R83), a in temporary 0. -/
def addressPhase (c : Config) (framing : Pseudo) (rw : Bool) : HostStmt :=
  .doUntil (seqOf [run framing, runTo 0 .i2cSend (sensorByte c rw)]) (ebin .eq (etmp 0) (elit 1))

/-- `IF a == 0 and DATA_NACK_POLICY == ABORT THEN I2C_STOP; RETURN NACK END` (R82, R83). -/
def nackPolicy (p : DataNackPolicy) (a : Tmp) : HostStmt :=
  match p with
  | .ignore => .nop
  | .abort => .ifThen (ebin .eq (etmp a) (elit 0)) (seqOf [run .i2cStop, .ret (.status .nack)])

/-- SENSOR_CONFIGURE (R82). -/
def sensorConfigure (c : Config) : HostStmt :=
  seqOf
    [ addressPhase c .i2cStart false,
      runTo 0 .i2cSend (elit c.regConf.toNat),
      nackPolicy c.dataNackPolicy 0,
      runTo 0 .i2cSend (elit 0x00),
      nackPolicy c.dataNackPolicy 0,
      run .i2cStop,
      .ret (.status .ok) ]

/-- SENSOR_READ (R83): a = 0, hi = 1, lo = 2. -/
def sensorRead (c : Config) : HostStmt :=
  seqOf
    [ addressPhase c .i2cStart false,
      runTo 0 .i2cSend (elit c.regTemp.toNat),
      nackPolicy c.dataNackPolicy 0,
      addressPhase c .i2cRestart true,
      runTo 1 .i2cRecv (elit 0),
      run .i2cAck,
      runTo 2 .i2cRecv (elit 0),
      run .i2cNack,
      run .i2cStop,
      .ret (ebin .bor (ebin .shl (etmp 1) (elit 8)) (etmp 2)) ]

/-- The body of a pseudo-instruction (R73 to R83). -/
def pseudoBody (c : Config) (p : Pseudo) : HostStmt :=
  match p with
  | .waitIdle => waitIdle c.idlePollBound
  | .i2cStart => i2cStart
  | .i2cRestart => i2cRestart
  | .i2cStop => i2cStop
  | .i2cSend => i2cSend
  | .i2cRecv => i2cRecv
  | .i2cAck => i2cAck
  | .i2cNack => i2cNack
  | .tickConsume => tickConsume
  | .sensorConfigure => sensorConfigure c
  | .sensorRead => sensorRead c

/-- Program P1 of 95_test_vectors.md: `r <- SENSOR_CONFIGURE`; it returns r. -/
def exampleP1 : HostStmt := seqOf [runTo 0 .sensorConfigure (elit 0), .ret (etmp 0)]

/-- Program P2 of 95_test_vectors.md: read the temperature, convert it to Fahrenheit; f = 1, c = 2. -/
def exampleP2 : HostStmt :=
  seqOf
    [ runTo 0 .sensorRead (elit 0), .write .raw (etmp 0), .write .unit (elit 2), .read 1 .conv, .read 2 .cel ]

/-- Program P3 of 95_test_vectors.md: tick consume and one debounced press. -/
def exampleP3 : HostStmt :=
  seqOf [.read 0 .inp, .read 1 .tick, .read 2 .tick, .read 3 .evt, .read 4 .evt, .read 5 .tickcnt]

/-- Program P4 of 95_test_vectors.md: a command while busy is refused. -/
def exampleP4 : HostStmt :=
  seqOf
    [ .write .conset (elit 0x1), .write .conset (elit 0x4), .read 0 .stat, .read 1 .con, .write .statclr (elit 0x80),
      .read 2 .stat ]

/-- Program P5 of 95_test_vectors.md: `raw <- SENSOR_READ`, run with DATA_NACK_POLICY = ABORT; it returns raw. -/
def exampleP5 : HostStmt := seqOf [runTo 0 .sensorRead (elit 0), .ret (etmp 0)]

end Sys2Proof.Machine
end

