-- ==== Sys2Proof/Machine/HostProgram.lean ====
section
/-! DEFINITION. The host running a program (30_encoding.md R72): one statement at a time. An instruction inside it is
`exec` of that instruction; every other construct "takes no step of the block" and changes the host alone (log 11). -/

namespace Sys2Proof.Machine

/-- The integer a value counts as in an expression: of a status name, a free value (log 13). -/
def HostValue.toInt : HostValue → Int
  | .int n => n
  | .status n => Config.statusInt n

/-- The value of a temporary: of one nothing has assigned, a free value (log 13). -/
def tempGet (t : Tmp) : List (Tmp × HostValue) → HostValue
  | [] => .int (Config.unassigned t)
  | (u, v) :: rest => if u = t then v else tempGet t rest

/-- Assign a temporary. -/
def tempSet (t : Tmp) (v : HostValue) : List (Tmp × HostValue) → List (Tmp × HostValue)
  | [] => [(t, v)]
  | (u, w) :: rest => if u = t then (t, v) :: rest else (u, w) :: tempSet t v rest

/-- 1 for true, 0 for false. -/
def truth (b : Bool) : Int := if b then 1 else 0

/-- Whether an integer counts as true. DESIGN CHOICE: 1 does and 0 does not, as comparisons give them; of any other a free
value says it (log 26). -/
def intTruth (n : Int) : Bool :=
  if n = 0 then false else if n = 1 then true else Config.hostTruth n

/-- An operation that R9 defines bit by bit, on integers that are not negative. DESIGN CHOICE: with a negative operand, which
R9 does not cover, its result is a free value (log 25). -/
def onNaturals (op : HostOp) (f : Nat → Nat → Nat) (a b : Int) : Int :=
  match a, b with
  | .ofNat m, .ofNat n => (f m n : Nat)
  | .ofNat _, .negSucc _ => Config.hostOp op a b
  | .negSucc _, .ofNat _ => Config.hostOp op a b
  | .negSucc _, .negSucc _ => Config.hostOp op a b

/-- The operations of host expressions on unbounded integers (R72, R9; log 25, 26). -/
def evalOp (op : HostOp) (a b : Int) : Int :=
  match op with
  | .add => a + b
  | .sub => a - b
  | .mul => a * b
  | .band => onNaturals .band (fun m n => m &&& n) a b
  | .bor => onNaturals .bor (fun m n => m ||| n) a b
  | .bxor => onNaturals .bxor (fun m n => m ^^^ n) a b
  | .shl => onNaturals .shl (fun m n => m <<< n) a b
  | .shr => onNaturals .shr (fun m n => m >>> n) a b
  | .eq => truth (a == b)
  | .ne => truth (a != b)
  | .lt => truth (decide (a < b))
  | .ge => truth (decide (b ≤ a))
  | .and => truth (intTruth a && intTruth b)
  | .or => truth (intTruth a || intTruth b)

/-- The value of a host expression (R72). -/
def evalExpr (temps : List (Tmp × HostValue)) : HostExpr → HostValue
  | .lit n => .int n
  | .status n => .status n
  | .tmp t => tempGet t temps
  | .bin op a b => .int (evalOp op (evalExpr temps a).toInt (evalExpr temps b).toInt)
  | .cond c a b => if intTruth (evalExpr temps c).toInt then evalExpr temps a else evalExpr temps b

/-- Whether a condition of IF or UNTIL holds (R72; log 26). -/
def condHolds (temps : List (Tmp × HostValue)) (e : HostExpr) : Bool := intTruth (evalExpr temps e).toInt

/-- The condition that holds exactly when `e` does not: a DO body UNTIL e goes round again. -/
def untilFails (e : HostExpr) : HostExpr := .cond e (.lit 0) (.lit 1)

/-- The 32-bit number an expression writes (R71); a value outside 32 bits is taken modulo 2^32 (log 14). -/
def exprWord (temps : List (Tmp × HostValue)) (e : HostExpr) : Word := BitVec.ofInt 32 (evalExpr temps e).toInt

/-- `t <- v` in a body's own temporaries (R72). -/
def Frame.assign (f : Frame) (t : Tmp) (v : HostValue) : Frame := { f with temps := tempSet t v f.temps }

/-- The host leaves a body: with callers, the caller's temporary takes the value returned, if it asked for one and there
is one; without, the program has returned (R72, R145). -/
def hostReturn (v : Option HostValue) (top : Frame) (callers : List Frame) : HostStatus :=
  match callers with
  | [] => .returned v
  | f :: rest =>
    match top.dest, v with
    | some t, some x => .running (f.assign t x) rest
    | _, _ => .running f rest

/-- The host takes the value that the read of this step returned into temporary t. -/
def State.takeRead (s : State) (t : Tmp) : State :=
  match s.host, s.readData with
  | .running f callers, some v => { s with host := .running (f.assign t (.int v.toNat)) callers }
  | _, _ => s

/-- The host status after a construct that the block does not see; `todo` are the statements after it (R72). -/
def hostSilent (c : Config) (st : HostStmt) (todo : List HostStmt) (f : Frame) (callers : List Frame) : HostStatus :=
  match st with
  | .nop => .running { f with todo := todo } callers
  | .seq a b => .running { f with todo := a :: b :: todo } callers
  | .assign t e => .running { f.assign t (evalExpr f.temps e) with todo := todo } callers
  | .ifThen cond body =>
      .running { f with todo := if condHolds f.temps cond then body :: todo else todo } callers
  | .doUntil body cond =>
      .running
        { f with todo := body :: .ifThen (untilFails cond) (.doUntil body cond) :: todo } callers
  | .ret v => hostReturn (some (evalExpr f.temps v)) f callers
  | .call dest p arg =>
      .running { temps := [(0, evalExpr f.temps arg)], todo := [pseudoBody c p], dest := dest }
        ({ f with todo := todo } :: callers)
  | .read _ _ => .running { f with todo := todo } callers
  | .write _ _ => .running { f with todo := todo } callers

/-- One statement of the host program (R72): an instruction is a step of the block, everything else is the host's own. -/
def hostStep (c : Config) (s : State) : Result :=
  match s.host with
  | .noProgram => .fault .hostNotRunning
  | .returned _ => .fault .hostNotRunning
  | .running f callers =>
    match f.todo with
    | [] => .next { s with host := hostReturn none f callers }
    | st :: todo =>
      let s1 := { s with host := hostSilent c st todo f callers }
      match st with
      | .read t r => onNext (fun s2 => s2.takeRead t) (exec r.instr s1)
      | .write r v => exec (r.instr (exprWord f.temps v)) s1
      | .nop | .seq _ _ | .assign _ _ | .ifThen _ _ | .doUntil _ _ | .ret _ | .call _ _ _ => .next s1

end Sys2Proof.Machine
end

