-- ==== Sys2Proof/Machine/Agents.lean ====
section
/-! DEFINITION. What each agent's step does (00_scope.md R11): host accesses as packets and at addresses
(20_memory.md R49 to R51, 60_exceptions.md R143, R146), host programs, BUS, TICKSRC, PINS, and reset. -/

namespace Sys2Proof.Machine

/-- A host access as its packet (R49, R64): the instruction it decodes to, or the fault RESERVED(packet) recorded (R51). -/
def runPacket (p : Packet) (s : State) : Result :=
  match decode p with
  | .ok i => exec i s
  | .error _ => .next (s.recordFault (.reserved p))

/-- The packet of an aligned 32-bit access at an offset in the window (R49, R64); a read's DATA is ignored (log 20). -/
def accessPacket (c : Config) (a : HostAccess) : Packet :=
  Packet.mk a.write.isSome (BitVec.ofNat 5 ((a.addr - c.base) / 4)) (a.write.getD 0)

/-- A host access at a byte address: outside the window "not an access to this block" (R49; log 15); of another width or
alignment BAD_ACCESS, "decided first (before decoding)" (R50, R146); else its packet. -/
def runAccess (c : Config) (a : HostAccess) (s : State) : Result :=
  if !c.inWindow a.addr then .next s
  else if !a.wellFormed then .next (s.recordFault (.badAccess a.addr a.width))
  else runPacket (accessPacket c a) s

/-- One agent step (R11). -/
def agentStep (c : Config) (a : AgentStep) (s : State) : Result :=
  match a with
  | .packet p => runPacket p s
  | .access x => runAccess c x s
  | .host => hostStep c s
  | .bus d => busStep c d s
  | .tick => .next (tickStep c s)
  | .pins v => .next (pinsStep v s)
  | .reset => .next s.resetBlock

/-- One agent step, then the end of the run if this is the state it ends in (R11, R145; log 17). -/
def stepAs (c : Config) (a : AgentStep) (s : State) : Result :=
  onNext State.closeRun (agentStep c a s)

/-- One step under a given configuration: the next agent step of the agenda. With nothing scheduled there is no step
(log 3). -/
def stepWith (c : Config) (s : State) : Result :=
  match s.agenda with
  | [] => .fault .nothingScheduled
  | a :: rest => stepAs c a { s with agenda := rest }

/-- The packet that a table word's bits give, with bits above `nbits` 0 (log 1). -/
def tablePacket (nbits w : Nat) : Packet := BitVec.ofNat 40 (w % 2 ^ nbits)

end Sys2Proof.Machine
end

