-- ==== Sys2Proof/Machine/Step.lean ====
section
/-! DEFINITION. The machine's step, and the placing of a host access as the next one. -/

namespace Sys2Proof.Machine

/-- One step of the machine on its platform: the first agent step of the agenda (R11, R58). -/
def step (s : State) : Host.Outcome State Fault Refusal := stepWith Config.platform s

/-- The host access of a table word, put first in the agenda, where `step` takes its next agent step from (log 23). -/
def State.withFetchWord (s : State) (nbits w : Nat) : State :=
  { s with agenda := .packet (tablePacket nbits w) :: s.agenda }

end Sys2Proof.Machine
end

