-- ==== Sys2Proof/Safety.lean ====
section
/-! DEFINITION. What counts as a good run, in the terms claims use: the invariants of the spec, the good end of a run
(60_exceptions.md R145), and the named fairness premises (70_reset_and_hazards.md R168). -/

namespace Sys2Proof.Machine

/-- The rows of the mode table of R32, each by its own condition. -/
def Mode.row (m : Mode) (s : State) : Bool :=
  match m with
  | .idle => s.idle
  | .starting => s.con.sen
  | .restarting => s.con.rsen
  | .stopping => s.con.pen
  | .txData => s.stat.tbf && s.stat.trstat
  | .txAck => !s.stat.tbf && s.stat.trstat
  | .receiving => s.con.rcen
  | .masterAck => s.con.acken

/-- The invariant of R32: "at most one of CON[4:0] is 1; if any of CON[4:0] is 1 then TRSTAT = 0 and TBF = 0;
TBF = 1 implies TRSTAT = 1". -/
structure EngineInv (s : State) : Prop where
  oneCommand  : popcount s.con.commands ≤ 1
  quietBus    : s.con.commands ≠ 0 → s.stat.trstat = false ∧ s.stat.tbf = false
  tbfInFlight : s.stat.tbf = true → s.stat.trstat = true

/-- The debouncer's invariant, read from R43, R132 and R134: REL counts while not armed and stays below SETTLE_TICKS;
EVEC and EVOV are clear while no event waits; a waiting event has an input in it. -/
structure DebounceInv (settle : Nat) (s : State) : Prop where
  relBelow   : s.rel.toNat < settle
  relArmed   : s.evt.armed = true → s.rel = 0
  noEvent    : s.evt.evtv = false → s.evt.evec = 0 ∧ s.evt.evov = false
  eventInput : s.evt.evtv = true → s.evt.evec ≠ 0

/-- S and P after a bus event (R26). -/
def framingAfter (h : Bool × Bool) (e : BusEvent) : Bool × Bool :=
  match e with
  | .start | .restart => (true, false)
  | .stop => (false, true)
  | .tx _ _ | .rx _ | .mack _ => h

/-- ACKSTAT after a bus event (R30). -/
def ackAfter (a : Bool) (e : BusEvent) : Bool :=
  match e with
  | .tx _ b => b
  | .start | .restart | .stop | .rx _ | .mack _ => a

/-- The status agrees with the bus trace: S and P tell the last framing condition completed (R23, R26), ACKSTAT the
acknowledge of the last byte transmitted (R23, R30). -/
structure TraceInv (s : State) : Prop where
  framing : (s.stat.s, s.stat.p) = s.trace.foldl framingAfter (false, false)
  ack     : s.stat.ackstat = s.trace.foldl ackAfter false

/-- "The end state is good exactly when faults = {} and marks = {} there" (R145). -/
def State.goodEnd (s : State) : Bool :=
  s.ended && s.faults.isEmpty && s.marks.empty

/-- What a register or the host can show of a state: all but the state that "change[s] nothing a register shows"
(XADDR, DIR, MACKP: R43) and the model-only record (R44), which are blanked. -/
def State.shown (s : State) : State :=
  { s with xaddr := false, dir := false, mackp := false, trace := [], faults := [], marks := Marks.none }

/-- A finite run: the agent steps of a list, in order, each closing the run where it ends (R11, R58, R145). -/
def runAgents (c : Config) : List AgentStep → State → Result
  | [], s => .next s
  | a :: rest, s =>
    match stepAs c a s with
    | .next t => runAgents c rest t
    | .fault r => .fault r
    | .refused r => .refused r

/-- The instruction that an agent step performs, if it performs one (R49, R72). -/
def performed (c : Config) (a : AgentStep) (s : State) : Option Instr :=
  match a with
  | .packet p => (decode p).toOption
  | .access x => if c.inWindow x.addr && x.wellFormed then (decode (accessPacket c x)).toOption else none
  | .host =>
    match s.host with
    | .running f _ =>
      match f.todo with
      | .read _ r :: _ => some r.instr
      | .write r v :: _ => some (r.instr (exprWord f.temps v))
      | _ => none
    | .noProgram => none
    | .returned _ => none
  | .bus _ => none
  | .tick => none
  | .pins _ => none
  | .reset => none

/-- Every agent step of a finite run meets P at the state in which the run takes it. -/
def alongRun (c : Config) (P : AgentStep → State → Prop) : List AgentStep → State → Prop
  | [], _ => True
  | a :: rest, s => P a s ∧ ∀ t, stepAs c a s = .next t → alongRun c P rest t

/-- The samples of a finite run: the pins at each of its ticks, in order (R133, R135). -/
def tickSamples (c : Config) : List AgentStep → State → List Byte
  | [], _ => []
  | a :: rest, s =>
    (if a = .tick then [s.pins] else []) ++
      match stepAs c a s with
      | .next t => tickSamples c rest t
      | .fault _ => []
      | .refused _ => []

/-- The agent steps of a run of a host program: the accesses are the one host's program's (R151), and the run is not cut
by a reset. -/
def AgentStep.ofProgramRun : AgentStep → Bool
  | .host => true
  | .bus _ => true
  | .tick => true
  | .pins _ => true
  | .packet _ => false
  | .access _ => false
  | .reset => false

/-- An infinite run of a host program and the agents beside it (R11, R58, R145): each agent step of the schedule is taken
and closes the run where it ends, and the host goes on with its program until it has returned, so that nothing but the
premises of R168 can keep the program from its end (log 21). -/
structure IsRun (c : Config) (sched : Nat → AgentStep) (st : Nat → State) : Prop where
  steps    : ∀ k, stepAs c (sched k) (st k) = .next (st (k + 1))
  agents   : ∀ k, (sched k).ofProgramRun = true
  hostGoes : ∀ n, ∃ k, n ≤ k ∧ (sched k = .host ∨ ∀ f callers, (st k).host ≠ .running f callers)

/-- `BUS_FAIR`: "every pending bus operation eventually completes" (R168). -/
def BusFair (st : Nat → State) : Prop :=
  ∀ k, (st k).idle = false → ∃ j, k ≤ j ∧ (st j).idle = true

/-- The step at k is the acknowledge of an address byte: a TX_ACK step right after a START or RESTART in the trace. -/
def addressAck (sched : Nat → AgentStep) (st : Nat → State) (k : Nat) (ack : Bool) : Prop :=
  (st k).mode = .txAck ∧ ((st k).trace.getLast? = some .start ∨ (st k).trace.getLast? = some .restart) ∧
    ∃ d, sched k = .bus d ∧ d.ack = ack

/-- `SLAVE_ACKS`: "in every address retry loop the slave eventually acknowledges" (R168): a slave asked for ever does
not refuse for ever (log 21). -/
def SlaveAcks (sched : Nat → AgentStep) (st : Nat → State) : Prop :=
  (∀ n, ∃ k, n ≤ k ∧ ∃ a, addressAck sched st k a) → ∀ n, ∃ k, n ≤ k ∧ addressAck sched st k false

/-- `TICK_FAIR`: "ticks happen infinitely often" (R168). -/
def TickFair (sched : Nat → AgentStep) : Prop := ∀ n, ∃ k, n ≤ k ∧ sched k = .tick

end Sys2Proof.Machine
end

