-- ==== Sys2Proof/Certificates/Slice0/Obligations.lean ====
section
/-! DEFINITION. The statements for the provers. Each docstring names the rules of spec/ it formalises.
A next state written as a record update of `s` says the frame too: every field not named is unchanged. -/

namespace Sys2Proof.Machine

/-- The CON write with a given alias function (R88 to R91). -/
def conWriteInstr (f : AliasFn) (d : Word) : Instr :=
  match f with
  | .whole => .wrCon d
  | .clr => .wrConclr d
  | .set => .wrConset d
  | .inv => .wrConinv d

/-- The STAT write with a given alias function (R99 to R102). -/
def statWriteInstr (f : AliasFn) (d : Word) : Instr :=
  match f with
  | .whole => .wrStat d
  | .clr => .wrStatclr d
  | .set => .wrStatset d
  | .inv => .wrStatinv d

/-- One bit of an alias function: x, old and not x, old or x, old xor x (R87, R98). -/
def aliasBit (f : AliasFn) (old x : Bool) : Bool :=
  match f with
  | .whole => x
  | .clr => old && !x
  | .set => old || x
  | .inv => old != x

/-- Bit k of CON by its field (R15). -/
def Con.field (c : Con) (k : Nat) : Bool :=
  match k with
  | 0 => c.sen
  | 1 => c.rsen
  | 2 => c.pen
  | 3 => c.rcen
  | 4 => c.acken
  | 5 => c.ackdt
  | _ => false

/-- Bit k of STAT by its field (R23). -/
def Stat.field (t : Stat) (k : Nat) : Bool :=
  match k with
  | 0 => t.tbf
  | 1 => t.rbf
  | 3 => t.s
  | 4 => t.p
  | 6 => t.i2cov
  | 7 => t.iwcol
  | 14 => t.trstat
  | 15 => t.ackstat
  | _ => false

/-- Bit k of EVT by its field (R42). -/
def Evt.field (e : Evt) (k : Nat) : Bool :=
  match k with
  | 8 => e.evtv
  | 9 => e.armed
  | 10 => e.evov
  | _ => e.evec.getLsbD k

/-- A CON write newly sets command bit k (R87). -/
def newlySet (f : AliasFn) (d : Word) (c : Con) (k : Nat) : Bool :=
  aliasBit f (c.field k) (d.getLsbD k) && !c.field k

/-- A CON write newly sets command bit k and no other (R87). -/
def newlySetsOnly (f : AliasFn) (d : Word) (c : Con) (k : Nat) : Prop :=
  ∀ j, j < 5 → (newlySet f d c j = true ↔ j = k)

/-- The 24 rows of the table of R65. -/
def opcodeRows : List (BitVec 8 × (Word → Instr)) :=
  [ (0x00, fun _ => .rdCon), (0x04, fun _ => .rdStat), (0x08, fun _ => .rdTrn), (0x09, fun _ => .rdRcv),
    (0x10, fun _ => .rdRaw), (0x11, fun _ => .rdCel), (0x12, fun _ => .rdUnit), (0x13, fun _ => .rdConv),
    (0x18, fun _ => .rdTick), (0x19, fun _ => .rdTickcnt), (0x1A, fun _ => .rdIn), (0x1B, fun _ => .rdEvt) ] ++
  [ (0x80, .wrCon), (0x81, .wrConclr), (0x82, .wrConset), (0x83, .wrConinv),
    (0x84, .wrStat), (0x85, .wrStatclr), (0x86, .wrStatset), (0x87, .wrStatinv),
    (0x88, .wrTrn), (0x90, .wrRaw), (0x92, .wrUnit), (0x99, .wrTickcnt) ]

/-- The opcode byte of the instruction of an operand: the "Encoding" line of the instruction's rule. -/
def encodedBy (opb : BitVec 8) (i : Word → Instr) : Prop :=
  ∀ d : Word, decode (opb ++ d) = .ok (i d)

/-- An agent step that performs no host write at the state it is taken in: a step of BUS, TICKSRC, PINS or reset, a read, a
host construct, an access that is no instruction. -/
def noHostWrite (c : Config) (a : AgentStep) (s : State) : Prop :=
  ∀ i, performed c a s = some i → i.isWrite = false

/-- An agent step between two reads of TICK, at the state it is taken in: no RD TICK, no WR TICKCNT, no reset. -/
def keepsTickCount (c : Config) (a : AgentStep) (s : State) : Prop :=
  a ≠ .reset ∧ performed c a s ≠ some .rdTick ∧ ∀ d, performed c a s ≠ some (.wrTickcnt d)

/-- What the host's program is after a construct `st` with `todo` after it that the block does not see (R72): assignment,
IF, DO-UNTIL, RETURN, a call with its argument in temporary 0 of the body, and sequencing. -/
def programAfter (c : Config) (f : Frame) (callers : List Frame) (todo : List HostStmt) : HostStmt → HostStatus
  | .nop => .running ⟨f.temps, todo, f.dest⟩ callers
  | .seq a b => .running ⟨f.temps, a :: b :: todo, f.dest⟩ callers
  | .assign x e => .running ⟨tempSet x (evalExpr f.temps e) f.temps, todo, f.dest⟩ callers
  | .ifThen e body => .running ⟨f.temps, (if condHolds f.temps e then [body] else []) ++ todo, f.dest⟩ callers
  | .doUntil body e => .running ⟨f.temps, body :: .ifThen (untilFails e) (.doUntil body e) :: todo, f.dest⟩ callers
  | .call x p arg =>
      .running ⟨[(0, evalExpr f.temps arg)], [pseudoBody c p], x⟩ (⟨f.temps, todo, f.dest⟩ :: callers)
  | .ret e =>
      match callers, f.dest with
      | [], _ => .returned (some (evalExpr f.temps e))
      | g :: gs, some x => .running ⟨tempSet x (evalExpr f.temps e) g.temps, g.todo, g.dest⟩ gs
      | g :: gs, none => .running g gs
  | .read _ _ => .running f callers
  | .write _ _ => .running f callers

end Sys2Proof.Machine

open Sys2Proof Sys2Proof.Machine

/-! ### Encoding and the step -/

/-- R64, R65, R66: no bit of an instruction is lost by encoding it, at every operand value. -/
def Obligations.DecodeOfEncodeIsTheInstruction : Prop :=
  ∀ i : Instr, i.wellFormed = true → decode (encode i) = .ok i

/-- R65: the opcode byte selects the instruction by the table of 24 rows, whatever DATA is, and every other opcode byte
is reserved. -/
def Obligations.DecodeFollowsTheOpcodeTable : Prop :=
  opcodeRows.length = 24 ∧
  (∀ row ∈ opcodeRows, ∀ d : Word, decode (row.1 ++ d) = .ok (row.2 d)) ∧
  ∀ p : Packet, (∀ row ∈ opcodeRows, row.1 ≠ Packet.opb p) → decode p = .error (.reservedOpcode (Packet.opb p))

/-- R64 with the offsets of R48: bit 39 is W, bits 38:37 are 00, bits 36:32 are the word index of the register, bits
31:0 are the operand. -/
def Obligations.PacketHoldsTheFieldsOfTheInstruction : Prop :=
  ∀ i : Instr,
    (encode i).getLsbD 39 = i.isWrite ∧ (encode i).getLsbD 38 = false ∧ (encode i).getLsbD 37 = false ∧
    4 * ((encode i).toNat / 2 ^ 32 % 32) = i.offset ∧ (encode i).toNat % 2 ^ 32 = i.data.toNat

/-- R65, R71: words written out from the table decode to the instructions they stand for. -/
def Obligations.WrittenOutWordsDecode : Prop :=
  decode 0x8200000001 = .ok (.wrConset 0x1) ∧ decode 0x0400000000 = .ok .rdStat ∧
  decode 0x8800000090 = .ok (.wrTrn 0x90) ∧ decode 0x9000001980 = .ok (.wrRaw 0x1980) ∧
  decode 0x1B00000000 = .ok .rdEvt ∧ decode 0x9100000000 = .error (.reservedOpcode 0x91)

/-- R49, R54: a step whose next agent step is a packet is `exec` of the instruction the packet decodes to, on the state
with that entry taken off the agenda, followed by the end-of-run record of R145. -/
def Obligations.StepRunsTheDecodedInstruction : Prop :=
  ∀ (s : State) (p : Packet) (i : Instr) (rest : List AgentStep),
    s.agenda = .packet p :: rest → decode p = .ok i →
      step s = onNext State.closeRun (exec i { s with agenda := rest })

/-- The word that `withFetchWord` places is the one the next step runs, and it leaves the agenda as it was (the model's
own convention, log 23). -/
def Obligations.PlacedWordRunsNext : Prop :=
  ∀ (s : State) (w : Nat) (i : Instr), w < 2 ^ 40 → decodeTableWord 40 w = some i →
    step (s.withFetchWord 40 w) = onNext State.closeRun (exec i s)

/-- R51, R143: a packet that is no instruction records RESERVED(packet) and changes no register. -/
def Obligations.ReservedPacketIsOnlyRecorded : Prop :=
  ∀ (c : Config) (p : Packet) (s : State), (∀ i, decode p ≠ .ok i) →
    ∃ fs, agentStep c (.packet p) s = .next { s with faults := fs } ∧
      ∀ x, x ∈ fs ↔ x = .reserved p ∨ x ∈ s.faults

/-- R50, R146: an access to the window of another width or alignment records BAD_ACCESS(addr, width) before any
decoding and changes no register. -/
def Obligations.BadAccessIsOnlyRecorded : Prop :=
  ∀ (c : Config) (off width : Nat) (w : Option Word) (s : State), off < 0x80 → width ≠ 32 ∨ off % 4 ≠ 0 →
    ∃ fs, agentStep c (.access ⟨c.base + off, width, w⟩) s = .next { s with faults := fs } ∧
      ∀ x, x ∈ fs ↔ x = .badAccess (c.base + off) width ∨ x ∈ s.faults

/-- R49: an aligned 32-bit access in the window acts as its packet (IDX = off / 4, W, DATA), and an access outside the
window has no effect. The model's choice: a read's packet has DATA = 0, where R64 admits any (log 20), and an access that
starts below the window is outside it, whatever its width (log 15). -/
def Obligations.AccessIsItsPacket : Prop :=
  ∀ (c : Config) (s : State),
    (∀ (idx : Nat) (v : Word), idx < 32 →
      agentStep c (.access ⟨c.base + 4 * idx, 32, some v⟩) s =
        agentStep c (.packet (BitVec.ofNat 40 ((0x80 + idx) * 2 ^ 32 + v.toNat))) s) ∧
    (∀ idx : Nat, idx < 32 →
      agentStep c (.access ⟨c.base + 4 * idx, 32, none⟩) s = agentStep c (.packet (BitVec.ofNat 40 (idx * 2 ^ 32))) s) ∧
    ∀ x : HostAccess, x.addr < c.base ∨ c.base + 0x80 ≤ x.addr → agentStep c (.access x) s = .next s

/-- R66: the bits of DATA that a write does not use are ignored. -/
def Obligations.UnusedDataBitsAreIgnored : Prop :=
  ∀ (d d' : Word) (s : State),
    (∀ f, (∀ k, k < 6 → d.getLsbD k = d'.getLsbD k) → exec (conWriteInstr f d) s = exec (conWriteInstr f d') s) ∧
    (∀ f, d.getLsbD 6 = d'.getLsbD 6 → d.getLsbD 7 = d'.getLsbD 7 →
      exec (statWriteInstr f d) s = exec (statWriteInstr f d') s) ∧
    (d.toNat % 256 = d'.toNat % 256 → exec (.wrTrn d) s = exec (.wrTrn d') s) ∧
    (d.toNat % 65536 = d'.toNat % 65536 → exec (.wrRaw d) s = exec (.wrRaw d') s) ∧
    (d.toNat % 4 = d'.toNat % 4 → exec (.wrUnit d) s = exec (.wrUnit d') s)

/-! ### Reads of the bus master -/

/-- R86, R22: RD CON returns the fields of CON at bits 5:0, bits 31:6 read 0, and nothing else changes. -/
def Obligations.ReadConReturnsItsFields : Prop :=
  encodedBy 0x00 (fun _ => .rdCon) ∧
  ∀ s : State, ∃ v : Word, exec .rdCon s = .next { s with readData := some v } ∧
    ∀ k, k < 32 → v.getLsbD k = s.con.field k

/-- R97, R22: RD STAT returns the fields of STAT at their bits, the reserved bits read 0, and nothing else changes. -/
def Obligations.ReadStatReturnsItsFields : Prop :=
  encodedBy 0x04 (fun _ => .rdStat) ∧
  ∀ s : State, ∃ v : Word, exec .rdStat s = .next { s with readData := some v } ∧
    ∀ k, k < 32 → v.getLsbD k = s.stat.field k

/-- R104, R105: RD TRN and RD RCV return the byte zero-extended; RD RCV clears RBF and RD TRN changes nothing. -/
def Obligations.ReadTrnAndRcvReturnTheByte : Prop :=
  encodedBy 0x08 (fun _ => .rdTrn) ∧ encodedBy 0x09 (fun _ => .rdRcv) ∧
  ∀ s : State,
    (∃ v : Word, exec .rdTrn s = .next { s with readData := some v } ∧ v.toNat = s.trn.toNat) ∧
    ∃ v : Word, exec .rdRcv s = .next { s with readData := some v, stat.rbf := false } ∧ v.toNat = s.rcv.toNat

/-! ### Writes of the bus master -/

/-- R89: WR CONCLR clears ACKDT when d[5] = 1 and changes nothing else: no command starts, IWCOL is never set. -/
def Obligations.ConclrOnlyClearsAckdt : Prop :=
  encodedBy 0x81 .wrConclr ∧
  ∀ (d : Word) (s : State),
    exec (.wrConclr d) s = .next { s with con.ackdt := s.con.ackdt && !d.getLsbD 5 }

/-- R87: a CON write that newly sets no command bit updates ACKDT alone; one that newly sets two or more, or one while
the engine is busy, updates ACKDT and sets IWCOL, and no command starts. -/
def Obligations.ConWriteWithoutAnAcceptedCommand : Prop :=
  ∀ (f : AliasFn) (d : Word) (s : State),
    ((∀ k, k < 5 → newlySet f d s.con k = false) →
      exec (conWriteInstr f d) s = .next { s with con.ackdt := aliasBit f s.con.ackdt (d.getLsbD 5) }) ∧
    ((∃ j k, j < k ∧ k < 5 ∧ newlySet f d s.con j = true ∧ newlySet f d s.con k = true) ∨
        (s.idle = false ∧ ∃ k, k < 5 ∧ newlySet f d s.con k = true) →
      exec (conWriteInstr f d) s =
        .next { s with con.ackdt := aliasBit f s.con.ackdt (d.getLsbD 5), stat.iwcol := true })

/-- R92, R107: an accepted CON write of SEN starts a START, whether or not the bus is held, and the BUS step completes
it: S = 1, P = 0, the trace records START. -/
def Obligations.StartCommandAndItsBusStep : Prop :=
  ∀ (c : Config) (f : AliasFn) (d : Word) (s : State) (b : BusDraw),
    s.idle = true → newlySetsOnly f d s.con 0 →
    ∃ t, exec (conWriteInstr f d) s = .next t ∧
      t = { s with con.sen := true, con.ackdt := aliasBit f s.con.ackdt (d.getLsbD 5), xaddr := true, mackp := false,
                   marks.noMasterAck := s.marks.noMasterAck || s.mackp } ∧
      agentStep c (.bus b) t =
        .next { t with con.sen := false, stat.s := true, stat.p := false, trace := s.trace ++ [.start] }

/-- R93, R108: the same for RSEN and RESTART. -/
def Obligations.RestartCommandAndItsBusStep : Prop :=
  ∀ (c : Config) (f : AliasFn) (d : Word) (s : State) (b : BusDraw),
    s.idle = true → newlySetsOnly f d s.con 1 →
    ∃ t, exec (conWriteInstr f d) s = .next t ∧
      t = { s with con.rsen := true, con.ackdt := aliasBit f s.con.ackdt (d.getLsbD 5), xaddr := true, mackp := false,
                   marks.noMasterAck := s.marks.noMasterAck || s.mackp } ∧
      agentStep c (.bus b) t =
        .next { t with con.rsen := false, stat.s := true, stat.p := false, trace := s.trace ++ [.restart] }

/-- R94, R109: the same for PEN and STOP, which releases the bus; with S = 0 it is still carried out and not marked. -/
def Obligations.StopCommandAndItsBusStep : Prop :=
  ∀ (c : Config) (f : AliasFn) (d : Word) (s : State) (b : BusDraw),
    s.idle = true → newlySetsOnly f d s.con 2 →
    ∃ t, exec (conWriteInstr f d) s = .next t ∧
      t = { s with con.pen := true, con.ackdt := aliasBit f s.con.ackdt (d.getLsbD 5), xaddr := false, mackp := false,
                   marks.noMasterAck := s.marks.noMasterAck || s.mackp } ∧
      agentStep c (.bus b) t =
        .next { t with con.pen := false, stat.s := false, stat.p := true, trace := s.trace ++ [.stop] }

/-- R95, R112: an accepted CON write of RCEN starts a receive in every case, with the marks of R95; the BUS step delivers
the drawn byte, and with RBF = 1 sets I2COV and leaves RCV to OVF_RCV. -/
def Obligations.ReceiveCommandAndItsBusStep : Prop :=
  ∀ (c : Config) (f : AliasFn) (d : Word) (s : State) (b : BusDraw),
    s.idle = true → newlySetsOnly f d s.con 3 →
    ∃ t u, exec (conWriteInstr f d) s = .next t ∧
      t = { s with con.rcen := true, con.ackdt := aliasBit f s.con.ackdt (d.getLsbD 5), mackp := false,
                   marks.noTransaction := s.marks.noTransaction || !s.stat.s,
                   marks.dirMismatch := s.marks.dirMismatch || (s.stat.s && (s.xaddr || !s.dir)),
                   marks.noMasterAck := s.marks.noMasterAck || s.mackp } ∧
      agentStep c (.bus b) t = .next u ∧
      (s.stat.rbf = false →
        u = { t with con.rcen := false, rcv := b.byte, stat.rbf := true, mackp := true,
                     trace := s.trace ++ [.rx b.byte] }) ∧
      (s.stat.rbf = true →
        ∃ r, u = { t with con.rcen := false, rcv := r, stat.i2cov := true, mackp := true,
                          trace := s.trace ++ [.rx b.byte] } ∧
          (c.ovfRcv = .keepOld → r = s.rcv) ∧ (c.ovfRcv = .takeNew → r = b.byte) ∧ (c.ovfRcv = .any → r = b.overflow))

/-- R96, R113: an accepted CON write of ACKEN latches ACKDT as this write leaves it and starts a master acknowledge; the
BUS step sends the latched value, whatever ACKDT has become meanwhile. -/
def Obligations.MasterAckCommandAndItsBusStep : Prop :=
  ∀ (c : Config) (f : AliasFn) (d : Word) (s : State) (b : BusDraw) (later : Bool),
    s.idle = true → newlySetsOnly f d s.con 4 →
    ∃ t, exec (conWriteInstr f d) s = .next t ∧
      t = { s with con.acken := true, con.ackdt := aliasBit f s.con.ackdt (d.getLsbD 5),
                   ackl := aliasBit f s.con.ackdt (d.getLsbD 5), mackp := false,
                   marks.noRxToAck := s.marks.noRxToAck || !s.mackp } ∧
      agentStep c (.bus b) { t with con.ackdt := later } =
        .next { t with con.acken := false, con.ackdt := later,
                       trace := s.trace ++ [.mack (aliasBit f s.con.ackdt (d.getLsbD 5))] }

/-- R98 to R102: the four STAT writes change I2COV and IWCOL by the alias function and nothing else. -/
def Obligations.StatWritesChangeI2covAndIwcolOnly : Prop :=
  encodedBy 0x84 (statWriteInstr .whole) ∧ encodedBy 0x85 (statWriteInstr .clr) ∧
  encodedBy 0x86 (statWriteInstr .set) ∧ encodedBy 0x87 (statWriteInstr .inv) ∧
  ∀ (f : AliasFn) (d : Word) (s : State),
    exec (statWriteInstr f d) s =
      .next { s with stat.i2cov := aliasBit f s.stat.i2cov (d.getLsbD 6),
                     stat.iwcol := aliasBit f s.stat.iwcol (d.getLsbD 7) }

/-- R103: a TRN write while the engine is busy sets IWCOL and sends nothing; at idle it sends the byte, with the marks and
the address-byte rule of R103; the first BUS step then clears TBF (R110), the second clears TRSTAT, takes the slave's
acknowledge and extends the trace (R111). -/
def Obligations.TrnWriteSendsTheByteOrIsRefused : Prop :=
  encodedBy 0x88 .wrTrn ∧
  ∀ (c : Config) (d : Word) (s : State) (b1 b2 : BusDraw),
    (s.idle = false → exec (.wrTrn d) s = .next { s with stat.iwcol := true }) ∧
    (s.idle = true → ∃ t byte, byte.toNat = d.toNat % 256 ∧ exec (.wrTrn d) s = .next t ∧
      t = { s with trn := byte, stat.tbf := true, stat.trstat := true, mackp := false, xaddr := false,
                   dir := if s.xaddr then d.getLsbD 0 else s.dir,
                   marks.noTransaction := s.marks.noTransaction || !s.stat.s,
                   marks.dirMismatch := s.marks.dirMismatch || (s.stat.s && !s.xaddr && s.dir),
                   marks.noMasterAck := s.marks.noMasterAck || s.mackp } ∧
      agentStep c (.bus b1) t = .next { t with stat.tbf := false } ∧
      agentStep c (.bus b2) { t with stat.tbf := false } =
        .next { t with stat.tbf := false, stat.trstat := false, stat.ackstat := b2.ack,
                       trace := s.trace ++ [.tx byte b2.ack] })

/-! ### Decoder and converter -/

/-- R121, R122: WR RAW stores DATA[15:0] and changes nothing else; RD RAW returns RAW zero-extended. -/
def Obligations.RawIsStoredAndReadBack : Prop :=
  encodedBy 0x90 .wrRaw ∧ encodedBy 0x10 (fun _ => .rdRaw) ∧
  ∀ (d : Word) (s : State),
    (∃ r : RawTemp, exec (.wrRaw d) s = .next { s with raw := r } ∧ r.toNat = d.toNat % 65536) ∧
    ∃ v : Word, exec .rdRaw s = .next { s with readData := some v } ∧ v.toNat = s.raw.toNat

/-- R123: RD CEL returns RAW[15:4] sign-extended to 32 bits, bit by bit, and changes nothing else. -/
def Obligations.ReadCelSignExtendsRaw : Prop :=
  encodedBy 0x11 (fun _ => .rdCel) ∧
  ∀ s : State, ∃ v : Word, exec .rdCel s = .next { s with readData := some v } ∧
    (∀ k, k < 12 → v.getLsbD k = s.raw.getLsbD (k + 4)) ∧
    ∀ k, 12 ≤ k → k < 32 → v.getLsbD k = s.raw.getLsbD 15

/-- R118: Decode(r) = 16 * INT + FRAC with INT the signed high byte, r arithmetically shifted right by 8, and FRAC the next
nibble, whose bits weigh 8, 4, 2 and 1 sixteenths also when INT is negative; R117: so Decode(r) is between -2048 and 2047. -/
def Obligations.DecodedTemperatureIsIntegerPlusFraction : Prop :=
  ∀ r : RawTemp,
    decodeTemp r = 16 * (r.extractLsb' 8 8).toInt + ((r.extractLsb' 4 4).toNat : Int) ∧
    (r.extractLsb' 8 8).toInt = r.toInt / 256 ∧
    (r.extractLsb' 4 4).toNat =
      8 * (r.getLsbD 7).toNat + 4 * (r.getLsbD 6).toNat + 2 * (r.getLsbD 5).toNat + (r.getLsbD 4).toNat ∧
    -2048 ≤ decodeTemp r ∧ decodeTemp r ≤ 2047

/-- R119, R126: RD CONV returns, as a signed number with no overflow, the temperature RAW / 256 degrees Celsius floored to
1/16 degree and converted to the unit of UNIT in 1/400 degree, within the range of R119. -/
def Obligations.ReadConvReturnsTheExactConversion : Prop :=
  encodedBy 0x13 (fun _ => .rdConv) ∧
  ∀ s : State, ∃ v : Word, exec .rdConv s = .next { s with readData := some v } ∧
    (s.unit = .celsius → v.toInt = 25 * (s.raw.toInt / 16) ∧ -51200 ≤ v.toInt ∧ v.toInt ≤ 51175) ∧
    (s.unit = .kelvin → v.toInt = 25 * (s.raw.toInt / 16) + 109260 ∧ 58060 ≤ v.toInt ∧ v.toInt ≤ 160435) ∧
    (s.unit = .fahrenheit → v.toInt = 45 * (s.raw.toInt / 16) + 12800 ∧ -79360 ≤ v.toInt ∧ v.toInt ≤ 104915)

/-- R120: Convert(n, u) / 400 is exactly the source's to_unit of n / 16 degrees Celsius. -/
def Obligations.ConversionAgreesWithToUnit : Prop :=
  ∀ n : Int,
    (convert n .celsius : ℚ) / 400 = (n : ℚ) / 16 ∧
    (convert n .kelvin : ℚ) / 400 = (n : ℚ) / 16 + 27315 / 100 ∧
    (convert n .fahrenheit : ℚ) / 400 = (n : ℚ) / 16 * (9 / 5) + 32

/-- R124, R125: WR UNIT selects the unit of code DATA[1:0] and leaves UNIT unchanged for code 3; RD UNIT returns the code
and never 3. -/
def Obligations.UnitIsWrittenWhenLegalAndReadBack : Prop :=
  encodedBy 0x92 .wrUnit ∧ encodedBy 0x12 (fun _ => .rdUnit) ∧
  ∀ (d : Word) (s : State),
    (∃ u : TempUnit, exec (.wrUnit d) s = .next { s with unit := u } ∧
      (d.toNat % 4 ≠ 3 → u.code.toNat = d.toNat % 4) ∧ (d.toNat % 4 = 3 → u = s.unit)) ∧
    ∃ v : Word, exec .rdUnit s = .next { s with readData := some v } ∧ v.toNat = s.unit.code.toNat ∧ v.toNat ≠ 3

/-- R127: a read of CEL or CONV right after WR RAW, or of CONV right after WR UNIT, already sees the new value, whatever
code WR UNIT gave. -/
def Obligations.CelAndConvFollowTheWriteAtOnce : Prop :=
  ∀ (d e : Word) (s : State),
    ∃ t u v w x, exec (.wrRaw d) s = .next t ∧ exec .rdCel t = .next u ∧ exec .rdConv t = .next v ∧
      u.readData = some (celWord (d.setWidth 16)) ∧ v.readData = some (convWord (d.setWidth 16) s.unit) ∧
      exec (.wrUnit e) s = .next w ∧ (e.toNat % 4 ≠ 3 → w.unit.code.toNat = e.toNat % 4) ∧
      exec .rdConv w = .next x ∧ x.readData = some (convWord s.raw w.unit)

/-! ### Tick and debounce -/

/-- R128: RD TICK returns TICKF, adds one to TICKCNT modulo 2^32 exactly when it was set, and clears it. -/
def Obligations.ReadTickConsumesTheFlag : Prop :=
  encodedBy 0x18 (fun _ => .rdTick) ∧
  ∀ s : State, ∃ (v n : Word), exec .rdTick s = .next { s with readData := some v, tickcnt := n, tickf := false } ∧
    v.toNat = s.tickf.toNat ∧ n.toNat = (s.tickcnt.toNat + s.tickf.toNat) % 2 ^ 32

/-- R129, R130, R131: TICKCNT is read and written whole; RD IN returns the pins zero-extended. -/
def Obligations.TickcntAndInAccesses : Prop :=
  encodedBy 0x19 (fun _ => .rdTickcnt) ∧ encodedBy 0x99 .wrTickcnt ∧ encodedBy 0x1A (fun _ => .rdIn) ∧
  ∀ (d : Word) (s : State),
    exec .rdTickcnt s = .next { s with readData := some s.tickcnt } ∧
    exec (.wrTickcnt d) s = .next { s with tickcnt := d } ∧
    ∃ v : Word, exec .rdIn s = .next { s with readData := some v } ∧ v.toNat = s.pins.toNat

/-- R132: RD EVT returns the fields of EVT at their bits and clears EVTV, EVOV and EVEC; ARMED is not changed. With EVTV = 0
it returns EVEC = 0: so in every state that meets the debouncer's invariant. -/
def Obligations.ReadEvtReturnsAndClearsTheEvent : Prop :=
  encodedBy 0x1B (fun _ => .rdEvt) ∧
  ∀ s : State, ∃ v : Word,
    exec .rdEvt s = .next { s with readData := some v, evt := { evec := 0, evtv := false, armed := s.evt.armed, evov := false } } ∧
    (∀ k, k < 32 → v.getLsbD k = s.evt.field k) ∧
    ∀ settle, DebounceInv settle s → s.evt.evtv = false → v.toNat % 256 = 0

/-- R133, R134: a tick sets TICKF and samples the pins: the six cases of the debouncer, REL being below SETTLE_TICKS where it
arms, as the debouncer's invariant has it. R135: a PINS step changes the pins and nothing else. -/
def Obligations.TickSetsTheFlagAndSamples : Prop :=
  ∀ (c : Config) (s : State),
    (s.evt.armed = false → s.pins = 0 → s.rel.toNat < c.settleTicks → c.settleTicks ≤ s.rel.toNat + 1 →
      agentStep c .tick s = .next { s with tickf := true, evt.armed := true, rel := 0 }) ∧
    (s.evt.armed = false → s.pins = 0 → s.rel.toNat + 1 < c.settleTicks →
      ∃ r : BitVec 8, r.toNat = s.rel.toNat + 1 ∧ agentStep c .tick s = .next { s with tickf := true, rel := r }) ∧
    (s.evt.armed = false → s.pins ≠ 0 → agentStep c .tick s = .next { s with tickf := true, rel := 0 }) ∧
    (s.evt.armed = true → s.pins = 0 → agentStep c .tick s = .next { s with tickf := true }) ∧
    (s.evt.armed = true → s.pins ≠ 0 → s.evt.evtv = false →
      agentStep c .tick s =
        .next { s with tickf := true, evt.evec := s.pins, evt.evtv := true, evt.armed := false, rel := 0 }) ∧
    (s.evt.armed = true → s.pins ≠ 0 → s.evt.evtv = true →
      agentStep c .tick s = .next { s with tickf := true, evt.evov := true, evt.armed := false, rel := 0 }) ∧
    ∀ v : Byte, agentStep c (.pins v) s = .next { s with pins := v }

/-- R136: after any run with at least one tick and with no RD TICK, WR TICKCNT or reset among its steps, host-program steps
included, RD TICK returns 1 and TICKCNT has grown by 1, however many ticks there were. -/
def Obligations.TicksBetweenTwoReadsCountOnce : Prop :=
  ∀ (c : Config) (xs : List AgentStep) (s t : State),
    alongRun c (keepsTickCount c) xs s → .tick ∈ xs → runAgents c xs s = .next t →
      ∃ u, exec .rdTick t = .next u ∧ u.readData = some 1 ∧ u.tickf = false ∧ u.tickcnt = s.tickcnt + 1

/-- R137: an event fires at a tick from s (armed, an input active), latched or dropped. Any run xs after it, with whatever
steps in it, that comes to a state in which an event can fire again (armed) has SETTLE_TICKS consecutive ticks with every
input released in it. -/
def Obligations.EventsAreSeparatedByRelease : Prop :=
  ∀ (c : Config) (xs : List AgentStep) (s t u : State), s.evt.armed = true → s.pins ≠ 0 →
    stepAs c .tick s = .next t → runAgents c xs t = .next u → u.evt.armed = true →
      ∃ pre post, tickSamples c xs t = pre ++ List.replicate c.settleTicks 0 ++ post

/-- R138: while the debouncer is not armed and an input is active, no agent step arms it or lets an event fire (EVTV and EVOV
are not set, EVEC takes no new value); and a run from a debouncer as after reset (R47) that leaves EVT other than reset left
it has SETTLE_TICKS consecutive ticks with every input released in it. -/
def Obligations.InputHeldFromResetGivesNoEvent : Prop :=
  (∀ (c : Config) (a : AgentStep) (s t : State), s.evt.armed = false → s.pins ≠ 0 → stepAs c a s = .next t →
    t.evt.armed = false ∧ (t.evt.evtv = true → s.evt.evtv = true) ∧ (t.evt.evov = true → s.evt.evov = true) ∧
      (t.evt.evec = s.evt.evec ∨ t.evt.evec = 0)) ∧
  ∀ (c : Config) (xs : List AgentStep) (s t : State), s.evt = Evt.reset → s.rel = 0 → runAgents c xs s = .next t →
    t.evt ≠ Evt.reset → ∃ pre post, tickSamples c xs s = pre ++ List.replicate c.settleTicks 0 ++ post

/-! ### The bus agent and the engine -/

/-- R106: the BUS agent has a step exactly when the mode is not IDLE. -/
def Obligations.BusStepIsEnabledExactlyWhenBusy : Prop :=
  ∀ (c : Config) (b : BusDraw) (s : State),
    ((∃ t, agentStep c (.bus b) s = .next t) ↔ s.mode ≠ .idle) ∧ (s.mode = .idle ↔ s.idle = true)

/-- R107 to R113: what the BUS step of each mode does, and that it does nothing else. -/
def Obligations.BusStepOfEachMode : Prop :=
  ∀ (c : Config) (b : BusDraw) (s : State),
    (s.mode = .starting → agentStep c (.bus b) s =
      .next { s with con.sen := false, stat.s := true, stat.p := false, trace := s.trace ++ [.start] }) ∧
    (s.mode = .restarting → agentStep c (.bus b) s =
      .next { s with con.rsen := false, stat.s := true, stat.p := false, trace := s.trace ++ [.restart] }) ∧
    (s.mode = .stopping → agentStep c (.bus b) s =
      .next { s with con.pen := false, stat.s := false, stat.p := true, trace := s.trace ++ [.stop] }) ∧
    (s.mode = .txData → agentStep c (.bus b) s = .next { s with stat.tbf := false }) ∧
    (s.mode = .txAck → agentStep c (.bus b) s =
      .next { s with stat.trstat := false, stat.ackstat := b.ack, trace := s.trace ++ [.tx s.trn b.ack] }) ∧
    (s.mode = .receiving → ∃ r, agentStep c (.bus b) s =
        .next { s with con.rcen := false, rcv := r, stat.rbf := true, stat.i2cov := s.stat.i2cov || s.stat.rbf,
                       mackp := true, trace := s.trace ++ [.rx b.byte] } ∧
      (s.stat.rbf = false → r = b.byte) ∧
      (s.stat.rbf = true → (c.ovfRcv = .keepOld → r = s.rcv) ∧ (c.ovfRcv = .takeNew → r = b.byte) ∧
        (c.ovfRcv = .any → r = b.overflow))) ∧
    (s.mode = .masterAck → agentStep c (.bus b) s =
      .next { s with con.acken := false, trace := s.trace ++ [.mack s.ackl] })

/-- A pending operation is completed within two BUS steps, whatever the other agents do in between (from R32 and R106
to R113): some state on the way is idle. -/
def Obligations.TwoBusStepsCompleteAnyOperation : Prop :=
  ∀ (c : Config) (xs ys zs : List AgentStep) (b1 b2 : BusDraw) (s t : State), EngineInv s →
    runAgents c (xs ++ .bus b1 :: ys ++ .bus b2 :: zs) s = .next t →
      ∃ pre post u, xs ++ .bus b1 :: ys ++ [.bus b2] = pre ++ post ∧ runAgents c pre s = .next u ∧ u.idle = true

/-- R114: no BUS, TICKSRC or PINS step sets a command bit or TRSTAT; so if CON reads no command bit and later, along a run with
no host write in it, STAT reads TRSTAT = 0, the engine is idle then and stays idle until the next host write. -/
def Obligations.IdlenessIsDecidedByTwoReads : Prop :=
  (∀ (c : Config) (a : AgentStep) (s t : State), (∃ b, a = .bus b) ∨ a = .tick ∨ (∃ v, a = .pins v) →
    agentStep c a s = .next t →
      (∀ k, k < 5 → t.con.field k = true → s.con.field k = true) ∧ (t.stat.trstat = true → s.stat.trstat = true)) ∧
  ∀ (c : Config) (xs ys : List AgentStep) (s t u : State), (∀ k, k < 5 → s.con.field k = false) →
    alongRun c (noHostWrite c) xs s → runAgents c xs s = .next t → t.stat.trstat = false →
    alongRun c (noHostWrite c) ys t → runAgents c ys t = .next u → t.idle = true ∧ u.idle = true

/-- R32: in every state that meets the engine invariant exactly one row of the mode table holds, and it is the mode. -/
def Obligations.ExactlyOneModeRowHolds : Prop :=
  ∀ s : State, EngineInv s → ∀ m : Mode, m.row s = true ↔ m = s.mode

/-! ### Whole-machine rules -/

/-- R32: the engine invariant is "kept by every rule". -/
def Obligations.StepKeepsTheEngineInvariant : Prop :=
  ∀ s t : State, EngineInv s → step s = .next t → EngineInv t

/-- Every step keeps the debouncer's invariant (from R43, R132, R134). -/
def Obligations.StepKeepsTheDebounceInvariant : Prop :=
  ∀ s t : State, DebounceInv Config.platform.settleTicks s → step s = .next t →
    DebounceInv Config.platform.settleTicks t

/-- Every step keeps the status in agreement with the bus trace (from R23, R26, R30). -/
def Obligations.StepKeepsStatusAndTraceInAgreement : Prop :=
  ∀ s t : State, TraceInv s → step s = .next t → TraceInv t

/-- The reset state meets the three invariants, for every SETTLE_TICKS the platform may have. -/
def Obligations.ResetMeetsTheInvariants : Prop :=
  EngineInv State.reset ∧ (∀ c : Config, DebounceInv c.settleTicks State.reset) ∧ TraceInv State.reset

/-- R47, R154: the block's state after reset. -/
def Obligations.ResetStateIsAsStated : Prop :=
  State.reset.con.word = 0 ∧ State.reset.stat.word = 0 ∧ State.reset.trn = 0 ∧ State.reset.rcv = 0 ∧
  State.reset.raw = 0 ∧ celWord State.reset.raw = 0 ∧ State.reset.unit = .celsius ∧
  convWord State.reset.raw State.reset.unit = 0 ∧ State.reset.tickf = false ∧ State.reset.tickcnt = 0 ∧
  State.reset.evt.word = 0 ∧ State.reset.ackl = false ∧ State.reset.rel = 0 ∧ State.reset.xaddr = false ∧
  State.reset.dir = false ∧ State.reset.mackp = false ∧ State.reset.trace = [] ∧ State.reset.faults = [] ∧
  State.reset.marks = Marks.none ∧ State.reset.mode = .idle

/-- R155: a reset abandons a pending operation: afterwards the engine is idle, no BUS step is enabled, the trace holds no
event of it; the block's state is that of R47 and the pins are not reset. -/
def Obligations.ResetAbandonsAPendingOperation : Prop :=
  ∀ (c : Config) (s : State), ∃ t, agentStep c .reset s = .next t ∧ t.idle = true ∧ t.trace = [] ∧
    (∀ b u, agentStep c (.bus b) t ≠ .next u) ∧ t.pins = s.pins ∧
    { t with pins := State.reset.pins, readData := none, host := .noProgram, ended := false, agenda := [] } = State.reset

/-- Who changes what (R30, R34, R42, R45, R44): RCV and ACKSTAT only the BUS step of their mode, ARMED and REL only a
tick, the pins only a PINS step, the trace only a BUS step; RAW, UNIT and TRN only their own write, TICKCNT only WR
TICKCNT and RD TICK. -/
def Obligations.StateChangesNameTheirWriter : Prop :=
  ∀ (c : Config) (a : AgentStep) (s t : State), a ≠ .reset → agentStep c a s = .next t →
    (t.rcv ≠ s.rcv → s.mode = .receiving ∧ ∃ b, a = .bus b) ∧
    (t.stat.ackstat ≠ s.stat.ackstat → s.mode = .txAck ∧ ∃ b, a = .bus b) ∧
    (t.evt.armed ≠ s.evt.armed ∨ t.rel ≠ s.rel → a = .tick) ∧
    (t.pins ≠ s.pins → ∃ v, a = .pins v) ∧
    (t.trace ≠ s.trace → ∃ b, a = .bus b) ∧
    (t.raw ≠ s.raw → ∃ d, performed c a s = some (.wrRaw d)) ∧
    (t.unit ≠ s.unit → ∃ d, performed c a s = some (.wrUnit d)) ∧
    (t.trn ≠ s.trn → ∃ d, performed c a s = some (.wrTrn d)) ∧
    (t.tickcnt ≠ s.tickcnt → performed c a s = some .rdTick ∨ ∃ d, performed c a s = some (.wrTickcnt d))

/-- R143, R144: faults and marks are never cleared but by a reset. -/
def Obligations.FaultsAndMarksAreNeverCleared : Prop :=
  ∀ s t : State, (∀ rest, s.agenda ≠ .reset :: rest) → step s = .next t →
    (∀ x ∈ s.faults, x ∈ t.faults) ∧
    (s.marks.noTransaction = true → t.marks.noTransaction = true) ∧
    (s.marks.dirMismatch = true → t.marks.dirMismatch = true) ∧
    (s.marks.noMasterAck = true → t.marks.noMasterAck = true) ∧
    (s.marks.noRxToAck = true → t.marks.noRxToAck = true) ∧
    (s.marks.busHeldAtEnd = true → t.marks.busHeldAtEnd = true)

/-- R61, R84: a step other than a reset adds at most one event to the trace, at its end: the event of the operation pending,
by its mode, added by the BUS step. -/
def Obligations.TraceGrowsByOneEventOfThePendingOperation : Prop :=
  ∀ (c : Config) (a : AgentStep) (s t : State), a ≠ .reset → agentStep c a s = .next t →
    t.trace = s.trace ∨
    ∃ b e, a = .bus b ∧ t.trace = s.trace ++ [e] ∧
      ((s.mode = .starting ∧ e = .start) ∨ (s.mode = .restarting ∧ e = .restart) ∨ (s.mode = .stopping ∧ e = .stop) ∨
        (s.mode = .txAck ∧ e = .tx s.trn b.ack) ∨ (s.mode = .receiving ∧ e = .rx b.byte) ∨
        (s.mode = .masterAck ∧ e = .mack s.ackl))

/-- The set of faults has no repeats, and every step keeps it so (log 10). -/
def Obligations.StepKeepsTheFaultSetFreeOfRepeats : Prop :=
  ∀ s t : State, s.faults.Nodup → step s = .next t → t.faults.Nodup

/-- R43, R144: XADDR, DIR, MACKP, the trace, the faults and the marks change nothing a register or the host shows: two
states that differ only there take the same steps and still differ only there. -/
def Obligations.MarkStateShowsNothing : Prop :=
  ∀ (c : Config) (s s' : State), s.shown = s'.shown →
    onNext State.shown (stepWith c s) = onNext State.shown (stepWith c s')

/-- R140: no instruction stops or traps: each answers a next state in every state. -/
def Obligations.EveryInstructionAnswersANextState : Prop :=
  ∀ (i : Instr) (s : State), ∃ t, exec i s = .next t

/-- A step stops exactly when no rule enables it: nothing scheduled, a BUS step in mode IDLE (R106), a host-program step
with no program running (the model's convention, log 3). -/
def Obligations.StepStopsExactlyWhenNoStepIsEnabled : Prop :=
  ∀ s : State, (∃ t, step s = .next t) ↔
    ∃ a rest, s.agenda = a :: rest ∧ (∀ b, a = .bus b → s.mode ≠ .idle) ∧
      (a = .host → ∃ f callers, s.host = .running f callers)

/-! ### Host programs -/

/-- R72: a construct that is no instruction takes no step of the block: the step changes the host's program alone, to
`programAfter`; at the end of a body the host goes back to the caller, or has returned. A DO body goes round again exactly
when its UNTIL condition does not hold; a temporary just assigned reads as the value, every other as before. -/
def Obligations.HostConstructsLeaveTheBlockUnchanged : Prop :=
  (∀ (c : Config) (s : State) (f : Frame) (callers : List Frame), s.host = .running f callers →
    (∀ st todo, f.todo = st :: todo → (∀ x r, st ≠ .read x r) → (∀ r v, st ≠ .write r v) →
      agentStep c .host s = .next { s with host := programAfter c f callers todo st }) ∧
    (f.todo = [] → callers = [] → agentStep c .host s = .next { s with host := .returned none }) ∧
    ∀ g gs, f.todo = [] → callers = g :: gs → agentStep c .host s = .next { s with host := .running g gs }) ∧
  (∀ (temps : List (Tmp × HostValue)) (e : HostExpr), condHolds temps (untilFails e) = !condHolds temps e) ∧
  ∀ (temps : List (Tmp × HostValue)) (x y : Tmp) (v : HostValue),
    tempGet y (tempSet x v temps) = if y = x then v else tempGet y temps

/-- R72, R71: a read or write statement is the instruction, on the block; a read's value goes to its temporary, and a write
of an expression whose value fits 32 bits writes that value. The model's choice: of a value that does not fit, it writes the
value modulo 2^32 (log 14), a status name or an unassigned temporary counting as a free value (log 13). -/
def Obligations.HostStatementsPerformTheirInstruction : Prop :=
  ∀ (c : Config) (s : State) (f : Frame) (callers : List Frame) (todo : List HostStmt), s.host = .running f callers →
    (∀ r v (w : Word), f.todo = .write r v :: todo → evalExpr f.temps v = .int w.toNat →
      agentStep c .host s = exec (r.instr w) { s with host := .running { f with todo := todo } callers }) ∧
    (∀ r v (w : Word), f.todo = .write r v :: todo → (w.toNat : Int) = (evalExpr f.temps v).toInt % 2 ^ 32 →
      agentStep c .host s = exec (r.instr w) { s with host := .running { f with todo := todo } callers }) ∧
    (∀ x r, f.todo = .read x r :: todo →
      ∃ t w, exec r.instr s = .next t ∧ t.readData = some w ∧
        agentStep c .host s =
          .next { t with host := .running ⟨tempSet x (.int w.toNat) f.temps, todo, f.dest⟩ callers })

/-- R73: over the values that RD CON and RD STAT return in a state, the exit test of WAIT_IDLE holds exactly when that
state is idle, and its busy test exactly when it is not. -/
def Obligations.WaitIdleTestsIdleness : Prop :=
  ∀ (s : State) (temps : List (Tmp × HostValue)),
    tempGet 1 temps = .int s.con.word.toNat → tempGet 2 temps = .int s.stat.word.toNat →
      condHolds temps (idleSeen 1 2) = s.idle ∧ condHolds temps (busySeen 1 2) = !s.idle

/-- R145: at the first state in which the host program has returned and the engine is idle the run ends, and with S = 1
there the mark BUS_HELD_AT_END is recorded; at every other state nothing is added. -/
def Obligations.EndOfRunRecordsAHeldBus : Prop :=
  ∀ (c : Config) (a : AgentStep) (rest : List AgentStep) (s u : State), s.agenda = a :: rest →
    agentStep c a { s with agenda := rest } = .next u →
      (u.host.hasReturned = true → u.idle = true → u.ended = false →
        stepWith c s =
          .next { u with ended := true, marks.busHeldAtEnd := u.marks.busHeldAtEnd || u.stat.s }) ∧
      (u.host.hasReturned = false ∨ u.idle = false ∨ u.ended = true → stepWith c s = .next u)

/-- R72, R9: the value of a host expression over unbounded integers: literals, temporaries, arithmetic, comparisons, the
operations R9 defines bit by bit on integers that are not negative, and a choice by a condition. 1 is true and 0 is false
(the model's choice, log 26); of other operands nothing is said (log 25, 26). -/
def Obligations.HostExpressionValues : Prop :=
  ∀ (temps : List (Tmp × HostValue)) (e1 e2 e3 : HostExpr) (a b : Int) (m n : Nat),
    (∀ x, evalExpr temps (.tmp x) = tempGet x temps) ∧ evalExpr temps (.lit a) = .int a ∧
    (evalExpr temps e1 = .int a → evalExpr temps e2 = .int b →
      evalExpr temps (.bin .add e1 e2) = .int (a + b) ∧ evalExpr temps (.bin .sub e1 e2) = .int (a - b) ∧
      evalExpr temps (.bin .mul e1 e2) = .int (a * b) ∧
      (condHolds temps (.bin .eq e1 e2) = true ↔ a = b) ∧ (condHolds temps (.bin .ne e1 e2) = true ↔ a ≠ b) ∧
      (condHolds temps (.bin .lt e1 e2) = true ↔ a < b) ∧ (condHolds temps (.bin .ge e1 e2) = true ↔ b ≤ a)) ∧
    (evalExpr temps e1 = .int m → evalExpr temps e2 = .int n →
      (∃ k : Nat, evalExpr temps (.bin .band e1 e2) = .int k ∧ ∀ i, k.testBit i = (m.testBit i && n.testBit i)) ∧
      (∃ k : Nat, evalExpr temps (.bin .bor e1 e2) = .int k ∧ ∀ i, k.testBit i = (m.testBit i || n.testBit i)) ∧
      (∃ k : Nat, evalExpr temps (.bin .bxor e1 e2) = .int k ∧ ∀ i, k.testBit i = (m.testBit i != n.testBit i)) ∧
      evalExpr temps (.bin .shl e1 e2) = .int ((m * 2 ^ n : Nat) : Int) ∧
      evalExpr temps (.bin .shr e1 e2) = .int ((m / 2 ^ n : Nat) : Int)) ∧
    (condHolds temps (.bin .and e1 e2) = (condHolds temps e1 && condHolds temps e2)) ∧
    (condHolds temps (.bin .or e1 e2) = (condHolds temps e1 || condHolds temps e2)) ∧
    evalExpr temps (.cond e1 e2 e3) = if condHolds temps e1 then evalExpr temps e2 else evalExpr temps e3
end

