-- ==== Sys2Proof/Laws/Encoding.lean ====
section
/-! SUPPORT. The fields of a packet built as opcode byte and DATA (R64), cited in place of unfolding extractions. -/

namespace Sys2Proof

@[simp] theorem Packet.opb_append (o : BitVec 8) (d : Word) : Packet.opb (o ++ d) = o := by
  apply BitVec.eq_of_getLsbD_eq
  intro k hk
  show ((o ++ d : BitVec (8 + 32)).extractLsb' 32 8).getLsbD k = _
  rw [BitVec.getLsbD_extractLsb', BitVec.getLsbD_append]
  simp [hk]

@[simp] theorem Packet.data_append (o : BitVec 8) (d : Word) : Packet.data (o ++ d) = d := by
  apply BitVec.eq_of_getLsbD_eq
  intro k hk
  show ((o ++ d : BitVec (8 + 32)).extractLsb' 0 32).getLsbD k = _
  rw [BitVec.getLsbD_extractLsb', BitVec.getLsbD_append]
  simp [hk]

/-- Decoding a packet given as opcode byte and DATA. -/
@[simp] theorem decode_append (o : BitVec 8) (d : Word) : decode (o ++ d) = decodeFields o d := by
  simp [decode]

/-- Every packet is its opcode byte and its DATA. -/
theorem Packet.opb_append_data (p : Packet) : (Packet.opb p ++ Packet.data p : Packet) = p := by
  apply BitVec.eq_of_getLsbD_eq
  intro k hk
  show (Packet.opb p ++ Packet.data p : BitVec (8 + 32)).getLsbD k = _
  rw [BitVec.getLsbD_append]
  simp only [Packet.opb, Packet.data, BitVec.getLsbD_extractLsb']
  by_cases h : k < 32
  · simp [h]
  · simp [h, show k - 32 < 8 by omega, show 32 + (k - 32) = k by omega]

end Sys2Proof
end

