-- ==== Sys2Proof/Laws/State.lean ====
section
/-! SUPPORT. One lemma for each field of the state after each shared update of Machine/Ops.lean, true by rfl. -/

namespace Sys2Proof.Machine

@[simp] theorem State.respond_con (v : Word) (s : State) : (s.respond v).con = s.con := rfl
@[simp] theorem State.respond_stat (v : Word) (s : State) : (s.respond v).stat = s.stat := rfl
@[simp] theorem State.respond_trn (v : Word) (s : State) : (s.respond v).trn = s.trn := rfl
@[simp] theorem State.respond_rcv (v : Word) (s : State) : (s.respond v).rcv = s.rcv := rfl
@[simp] theorem State.respond_raw (v : Word) (s : State) : (s.respond v).raw = s.raw := rfl
@[simp] theorem State.respond_unit (v : Word) (s : State) : (s.respond v).unit = s.unit := rfl
@[simp] theorem State.respond_tickf (v : Word) (s : State) : (s.respond v).tickf = s.tickf := rfl
@[simp] theorem State.respond_tickcnt (v : Word) (s : State) : (s.respond v).tickcnt = s.tickcnt := rfl
@[simp] theorem State.respond_evt (v : Word) (s : State) : (s.respond v).evt = s.evt := rfl
@[simp] theorem State.respond_ackl (v : Word) (s : State) : (s.respond v).ackl = s.ackl := rfl
@[simp] theorem State.respond_rel (v : Word) (s : State) : (s.respond v).rel = s.rel := rfl
@[simp] theorem State.respond_xaddr (v : Word) (s : State) : (s.respond v).xaddr = s.xaddr := rfl
@[simp] theorem State.respond_dir (v : Word) (s : State) : (s.respond v).dir = s.dir := rfl
@[simp] theorem State.respond_mackp (v : Word) (s : State) : (s.respond v).mackp = s.mackp := rfl
@[simp] theorem State.respond_trace (v : Word) (s : State) : (s.respond v).trace = s.trace := rfl
@[simp] theorem State.respond_faults (v : Word) (s : State) : (s.respond v).faults = s.faults := rfl
@[simp] theorem State.respond_marks (v : Word) (s : State) : (s.respond v).marks = s.marks := rfl
@[simp] theorem State.respond_pins (v : Word) (s : State) : (s.respond v).pins = s.pins := rfl
@[simp] theorem State.respond_readData (v : Word) (s : State) : (s.respond v).readData = some v := rfl
@[simp] theorem State.respond_host (v : Word) (s : State) : (s.respond v).host = s.host := rfl
@[simp] theorem State.respond_ended (v : Word) (s : State) : (s.respond v).ended = s.ended := rfl
@[simp] theorem State.respond_agenda (v : Word) (s : State) : (s.respond v).agenda = s.agenda := rfl

@[simp] theorem State.recordFault_con (f : FaultReason) (s : State) : (s.recordFault f).con = s.con := rfl
@[simp] theorem State.recordFault_stat (f : FaultReason) (s : State) : (s.recordFault f).stat = s.stat := rfl
@[simp] theorem State.recordFault_trn (f : FaultReason) (s : State) : (s.recordFault f).trn = s.trn := rfl
@[simp] theorem State.recordFault_rcv (f : FaultReason) (s : State) : (s.recordFault f).rcv = s.rcv := rfl
@[simp] theorem State.recordFault_raw (f : FaultReason) (s : State) : (s.recordFault f).raw = s.raw := rfl
@[simp] theorem State.recordFault_unit (f : FaultReason) (s : State) : (s.recordFault f).unit = s.unit := rfl
@[simp] theorem State.recordFault_tickf (f : FaultReason) (s : State) : (s.recordFault f).tickf = s.tickf := rfl
@[simp] theorem State.recordFault_tickcnt (f : FaultReason) (s : State) : (s.recordFault f).tickcnt = s.tickcnt := rfl
@[simp] theorem State.recordFault_evt (f : FaultReason) (s : State) : (s.recordFault f).evt = s.evt := rfl
@[simp] theorem State.recordFault_ackl (f : FaultReason) (s : State) : (s.recordFault f).ackl = s.ackl := rfl
@[simp] theorem State.recordFault_rel (f : FaultReason) (s : State) : (s.recordFault f).rel = s.rel := rfl
@[simp] theorem State.recordFault_xaddr (f : FaultReason) (s : State) : (s.recordFault f).xaddr = s.xaddr := rfl
@[simp] theorem State.recordFault_dir (f : FaultReason) (s : State) : (s.recordFault f).dir = s.dir := rfl
@[simp] theorem State.recordFault_mackp (f : FaultReason) (s : State) : (s.recordFault f).mackp = s.mackp := rfl
@[simp] theorem State.recordFault_trace (f : FaultReason) (s : State) : (s.recordFault f).trace = s.trace := rfl
@[simp] theorem State.recordFault_faults (f : FaultReason) (s : State) : (s.recordFault f).faults = if f ∈ s.faults then s.faults else s.faults ++ [f] := rfl
@[simp] theorem State.recordFault_marks (f : FaultReason) (s : State) : (s.recordFault f).marks = s.marks := rfl
@[simp] theorem State.recordFault_pins (f : FaultReason) (s : State) : (s.recordFault f).pins = s.pins := rfl
@[simp] theorem State.recordFault_readData (f : FaultReason) (s : State) : (s.recordFault f).readData = s.readData := rfl
@[simp] theorem State.recordFault_host (f : FaultReason) (s : State) : (s.recordFault f).host = s.host := rfl
@[simp] theorem State.recordFault_ended (f : FaultReason) (s : State) : (s.recordFault f).ended = s.ended := rfl
@[simp] theorem State.recordFault_agenda (f : FaultReason) (s : State) : (s.recordFault f).agenda = s.agenda := rfl

@[simp] theorem State.markIf_con (b : Bool) (k : Mark) (s : State) : (s.markIf b k).con = s.con := rfl
@[simp] theorem State.markIf_stat (b : Bool) (k : Mark) (s : State) : (s.markIf b k).stat = s.stat := rfl
@[simp] theorem State.markIf_trn (b : Bool) (k : Mark) (s : State) : (s.markIf b k).trn = s.trn := rfl
@[simp] theorem State.markIf_rcv (b : Bool) (k : Mark) (s : State) : (s.markIf b k).rcv = s.rcv := rfl
@[simp] theorem State.markIf_raw (b : Bool) (k : Mark) (s : State) : (s.markIf b k).raw = s.raw := rfl
@[simp] theorem State.markIf_unit (b : Bool) (k : Mark) (s : State) : (s.markIf b k).unit = s.unit := rfl
@[simp] theorem State.markIf_tickf (b : Bool) (k : Mark) (s : State) : (s.markIf b k).tickf = s.tickf := rfl
@[simp] theorem State.markIf_tickcnt (b : Bool) (k : Mark) (s : State) : (s.markIf b k).tickcnt = s.tickcnt := rfl
@[simp] theorem State.markIf_evt (b : Bool) (k : Mark) (s : State) : (s.markIf b k).evt = s.evt := rfl
@[simp] theorem State.markIf_ackl (b : Bool) (k : Mark) (s : State) : (s.markIf b k).ackl = s.ackl := rfl
@[simp] theorem State.markIf_rel (b : Bool) (k : Mark) (s : State) : (s.markIf b k).rel = s.rel := rfl
@[simp] theorem State.markIf_xaddr (b : Bool) (k : Mark) (s : State) : (s.markIf b k).xaddr = s.xaddr := rfl
@[simp] theorem State.markIf_dir (b : Bool) (k : Mark) (s : State) : (s.markIf b k).dir = s.dir := rfl
@[simp] theorem State.markIf_mackp (b : Bool) (k : Mark) (s : State) : (s.markIf b k).mackp = s.mackp := rfl
@[simp] theorem State.markIf_trace (b : Bool) (k : Mark) (s : State) : (s.markIf b k).trace = s.trace := rfl
@[simp] theorem State.markIf_faults (b : Bool) (k : Mark) (s : State) : (s.markIf b k).faults = s.faults := rfl
@[simp] theorem State.markIf_marks (b : Bool) (k : Mark) (s : State) : (s.markIf b k).marks = s.marks.addIf b k := rfl
@[simp] theorem State.markIf_pins (b : Bool) (k : Mark) (s : State) : (s.markIf b k).pins = s.pins := rfl
@[simp] theorem State.markIf_readData (b : Bool) (k : Mark) (s : State) : (s.markIf b k).readData = s.readData := rfl
@[simp] theorem State.markIf_host (b : Bool) (k : Mark) (s : State) : (s.markIf b k).host = s.host := rfl
@[simp] theorem State.markIf_ended (b : Bool) (k : Mark) (s : State) : (s.markIf b k).ended = s.ended := rfl
@[simp] theorem State.markIf_agenda (b : Bool) (k : Mark) (s : State) : (s.markIf b k).agenda = s.agenda := rfl

@[simp] theorem State.checkMasterAck_con (s : State) : (s.checkMasterAck).con = s.con := rfl
@[simp] theorem State.checkMasterAck_stat (s : State) : (s.checkMasterAck).stat = s.stat := rfl
@[simp] theorem State.checkMasterAck_trn (s : State) : (s.checkMasterAck).trn = s.trn := rfl
@[simp] theorem State.checkMasterAck_rcv (s : State) : (s.checkMasterAck).rcv = s.rcv := rfl
@[simp] theorem State.checkMasterAck_raw (s : State) : (s.checkMasterAck).raw = s.raw := rfl
@[simp] theorem State.checkMasterAck_unit (s : State) : (s.checkMasterAck).unit = s.unit := rfl
@[simp] theorem State.checkMasterAck_tickf (s : State) : (s.checkMasterAck).tickf = s.tickf := rfl
@[simp] theorem State.checkMasterAck_tickcnt (s : State) : (s.checkMasterAck).tickcnt = s.tickcnt := rfl
@[simp] theorem State.checkMasterAck_evt (s : State) : (s.checkMasterAck).evt = s.evt := rfl
@[simp] theorem State.checkMasterAck_ackl (s : State) : (s.checkMasterAck).ackl = s.ackl := rfl
@[simp] theorem State.checkMasterAck_rel (s : State) : (s.checkMasterAck).rel = s.rel := rfl
@[simp] theorem State.checkMasterAck_xaddr (s : State) : (s.checkMasterAck).xaddr = s.xaddr := rfl
@[simp] theorem State.checkMasterAck_dir (s : State) : (s.checkMasterAck).dir = s.dir := rfl
@[simp] theorem State.checkMasterAck_mackp (s : State) : (s.checkMasterAck).mackp = false := rfl
@[simp] theorem State.checkMasterAck_trace (s : State) : (s.checkMasterAck).trace = s.trace := rfl
@[simp] theorem State.checkMasterAck_faults (s : State) : (s.checkMasterAck).faults = s.faults := rfl
@[simp] theorem State.checkMasterAck_marks (s : State) : (s.checkMasterAck).marks = s.marks.addIf s.mackp .noMasterAck := rfl
@[simp] theorem State.checkMasterAck_pins (s : State) : (s.checkMasterAck).pins = s.pins := rfl
@[simp] theorem State.checkMasterAck_readData (s : State) : (s.checkMasterAck).readData = s.readData := rfl
@[simp] theorem State.checkMasterAck_host (s : State) : (s.checkMasterAck).host = s.host := rfl
@[simp] theorem State.checkMasterAck_ended (s : State) : (s.checkMasterAck).ended = s.ended := rfl
@[simp] theorem State.checkMasterAck_agenda (s : State) : (s.checkMasterAck).agenda = s.agenda := rfl

@[simp] theorem State.refuseWrite_con (s : State) : (s.refuseWrite).con = s.con := rfl
@[simp] theorem State.refuseWrite_stat (s : State) : (s.refuseWrite).stat = { s.stat with iwcol := true } := rfl
@[simp] theorem State.refuseWrite_trn (s : State) : (s.refuseWrite).trn = s.trn := rfl
@[simp] theorem State.refuseWrite_rcv (s : State) : (s.refuseWrite).rcv = s.rcv := rfl
@[simp] theorem State.refuseWrite_raw (s : State) : (s.refuseWrite).raw = s.raw := rfl
@[simp] theorem State.refuseWrite_unit (s : State) : (s.refuseWrite).unit = s.unit := rfl
@[simp] theorem State.refuseWrite_tickf (s : State) : (s.refuseWrite).tickf = s.tickf := rfl
@[simp] theorem State.refuseWrite_tickcnt (s : State) : (s.refuseWrite).tickcnt = s.tickcnt := rfl
@[simp] theorem State.refuseWrite_evt (s : State) : (s.refuseWrite).evt = s.evt := rfl
@[simp] theorem State.refuseWrite_ackl (s : State) : (s.refuseWrite).ackl = s.ackl := rfl
@[simp] theorem State.refuseWrite_rel (s : State) : (s.refuseWrite).rel = s.rel := rfl
@[simp] theorem State.refuseWrite_xaddr (s : State) : (s.refuseWrite).xaddr = s.xaddr := rfl
@[simp] theorem State.refuseWrite_dir (s : State) : (s.refuseWrite).dir = s.dir := rfl
@[simp] theorem State.refuseWrite_mackp (s : State) : (s.refuseWrite).mackp = s.mackp := rfl
@[simp] theorem State.refuseWrite_trace (s : State) : (s.refuseWrite).trace = s.trace := rfl
@[simp] theorem State.refuseWrite_faults (s : State) : (s.refuseWrite).faults = s.faults := rfl
@[simp] theorem State.refuseWrite_marks (s : State) : (s.refuseWrite).marks = s.marks := rfl
@[simp] theorem State.refuseWrite_pins (s : State) : (s.refuseWrite).pins = s.pins := rfl
@[simp] theorem State.refuseWrite_readData (s : State) : (s.refuseWrite).readData = s.readData := rfl
@[simp] theorem State.refuseWrite_host (s : State) : (s.refuseWrite).host = s.host := rfl
@[simp] theorem State.refuseWrite_ended (s : State) : (s.refuseWrite).ended = s.ended := rfl
@[simp] theorem State.refuseWrite_agenda (s : State) : (s.refuseWrite).agenda = s.agenda := rfl

@[simp] theorem State.emit_con (e : BusEvent) (s : State) : (s.emit e).con = s.con := rfl
@[simp] theorem State.emit_stat (e : BusEvent) (s : State) : (s.emit e).stat = s.stat := rfl
@[simp] theorem State.emit_trn (e : BusEvent) (s : State) : (s.emit e).trn = s.trn := rfl
@[simp] theorem State.emit_rcv (e : BusEvent) (s : State) : (s.emit e).rcv = s.rcv := rfl
@[simp] theorem State.emit_raw (e : BusEvent) (s : State) : (s.emit e).raw = s.raw := rfl
@[simp] theorem State.emit_unit (e : BusEvent) (s : State) : (s.emit e).unit = s.unit := rfl
@[simp] theorem State.emit_tickf (e : BusEvent) (s : State) : (s.emit e).tickf = s.tickf := rfl
@[simp] theorem State.emit_tickcnt (e : BusEvent) (s : State) : (s.emit e).tickcnt = s.tickcnt := rfl
@[simp] theorem State.emit_evt (e : BusEvent) (s : State) : (s.emit e).evt = s.evt := rfl
@[simp] theorem State.emit_ackl (e : BusEvent) (s : State) : (s.emit e).ackl = s.ackl := rfl
@[simp] theorem State.emit_rel (e : BusEvent) (s : State) : (s.emit e).rel = s.rel := rfl
@[simp] theorem State.emit_xaddr (e : BusEvent) (s : State) : (s.emit e).xaddr = s.xaddr := rfl
@[simp] theorem State.emit_dir (e : BusEvent) (s : State) : (s.emit e).dir = s.dir := rfl
@[simp] theorem State.emit_mackp (e : BusEvent) (s : State) : (s.emit e).mackp = s.mackp := rfl
@[simp] theorem State.emit_trace (e : BusEvent) (s : State) : (s.emit e).trace = s.trace ++ [e] := rfl
@[simp] theorem State.emit_faults (e : BusEvent) (s : State) : (s.emit e).faults = s.faults := rfl
@[simp] theorem State.emit_marks (e : BusEvent) (s : State) : (s.emit e).marks = s.marks := rfl
@[simp] theorem State.emit_pins (e : BusEvent) (s : State) : (s.emit e).pins = s.pins := rfl
@[simp] theorem State.emit_readData (e : BusEvent) (s : State) : (s.emit e).readData = s.readData := rfl
@[simp] theorem State.emit_host (e : BusEvent) (s : State) : (s.emit e).host = s.host := rfl
@[simp] theorem State.emit_ended (e : BusEvent) (s : State) : (s.emit e).ended = s.ended := rfl
@[simp] theorem State.emit_agenda (e : BusEvent) (s : State) : (s.emit e).agenda = s.agenda := rfl

@[simp] theorem State.resetBlock_con (s : State) : (s.resetBlock).con = State.reset.con := rfl
@[simp] theorem State.resetBlock_stat (s : State) : (s.resetBlock).stat = State.reset.stat := rfl
@[simp] theorem State.resetBlock_trn (s : State) : (s.resetBlock).trn = State.reset.trn := rfl
@[simp] theorem State.resetBlock_rcv (s : State) : (s.resetBlock).rcv = State.reset.rcv := rfl
@[simp] theorem State.resetBlock_raw (s : State) : (s.resetBlock).raw = State.reset.raw := rfl
@[simp] theorem State.resetBlock_unit (s : State) : (s.resetBlock).unit = State.reset.unit := rfl
@[simp] theorem State.resetBlock_tickf (s : State) : (s.resetBlock).tickf = State.reset.tickf := rfl
@[simp] theorem State.resetBlock_tickcnt (s : State) : (s.resetBlock).tickcnt = State.reset.tickcnt := rfl
@[simp] theorem State.resetBlock_evt (s : State) : (s.resetBlock).evt = State.reset.evt := rfl
@[simp] theorem State.resetBlock_ackl (s : State) : (s.resetBlock).ackl = State.reset.ackl := rfl
@[simp] theorem State.resetBlock_rel (s : State) : (s.resetBlock).rel = State.reset.rel := rfl
@[simp] theorem State.resetBlock_xaddr (s : State) : (s.resetBlock).xaddr = State.reset.xaddr := rfl
@[simp] theorem State.resetBlock_dir (s : State) : (s.resetBlock).dir = State.reset.dir := rfl
@[simp] theorem State.resetBlock_mackp (s : State) : (s.resetBlock).mackp = State.reset.mackp := rfl
@[simp] theorem State.resetBlock_trace (s : State) : (s.resetBlock).trace = State.reset.trace := rfl
@[simp] theorem State.resetBlock_faults (s : State) : (s.resetBlock).faults = State.reset.faults := rfl
@[simp] theorem State.resetBlock_marks (s : State) : (s.resetBlock).marks = State.reset.marks := rfl
@[simp] theorem State.resetBlock_pins (s : State) : (s.resetBlock).pins = s.pins := rfl
@[simp] theorem State.resetBlock_readData (s : State) : (s.resetBlock).readData = s.readData := rfl
@[simp] theorem State.resetBlock_host (s : State) : (s.resetBlock).host = s.host := rfl
@[simp] theorem State.resetBlock_ended (s : State) : (s.resetBlock).ended = s.ended := rfl
@[simp] theorem State.resetBlock_agenda (s : State) : (s.resetBlock).agenda = s.agenda := rfl

end Sys2Proof.Machine
end

