-- ==== Sys2Proof/Laws/Flags.lean ====
section
/-! SUPPORT. What the status words, the idle predicate and the mode say, field by field, so that no later proof
unfolds a concatenation. -/

namespace Sys2Proof.Machine

@[simp] theorem Con.bits_sen (c : Con) : c.bits[0] = c.sen := by
  obtain ⟨a, b, d, e, f, g⟩ := c
  revert a b d e f g
  decide
@[simp] theorem Con.bits_rsen (c : Con) : c.bits[1] = c.rsen := by
  obtain ⟨a, b, d, e, f, g⟩ := c
  revert a b d e f g
  decide
@[simp] theorem Con.bits_pen (c : Con) : c.bits[2] = c.pen := by
  obtain ⟨a, b, d, e, f, g⟩ := c
  revert a b d e f g
  decide
@[simp] theorem Con.bits_rcen (c : Con) : c.bits[3] = c.rcen := by
  obtain ⟨a, b, d, e, f, g⟩ := c
  revert a b d e f g
  decide
@[simp] theorem Con.bits_acken (c : Con) : c.bits[4] = c.acken := by
  obtain ⟨a, b, d, e, f, g⟩ := c
  revert a b d e f g
  decide
@[simp] theorem Con.bits_ackdt (c : Con) : c.bits[5] = c.ackdt := by
  obtain ⟨a, b, d, e, f, g⟩ := c
  revert a b d e f g
  decide

@[simp] theorem Stat.word_i2cov (t : Stat) : t.word[6] = t.i2cov := by
  obtain ⟨a, b, d, e, f, g, h, i⟩ := t
  revert a b d e f g h i
  decide
@[simp] theorem Stat.word_iwcol (t : Stat) : t.word[7] = t.iwcol := by
  obtain ⟨a, b, d, e, f, g, h, i⟩ := t
  revert a b d e f g h i
  decide

/-- One bit of an alias function. -/
theorem AliasFn.apply_bit {w : Nat} (f : AliasFn) (old x : BitVec w) (k : Nat) (hk : k < w) :
    (f.apply old x).getLsbD k =
      match f with
      | .whole => x.getLsbD k
      | .clr => old.getLsbD k && !x.getLsbD k
      | .set => old.getLsbD k || x.getLsbD k
      | .inv => old.getLsbD k != x.getLsbD k := by
  cases f <;> simp [AliasFn.apply, hk]

/-- The command bits are all clear exactly when each is. -/
theorem Con.commands_eq_zero (c : Con) :
    c.commands = 0#5 ↔
      c.sen = false ∧ c.rsen = false ∧ c.pen = false ∧ c.rcen = false ∧ c.acken = false := by
  obtain ⟨a, b, d, e, f, g⟩ := c
  revert a b d e f g
  decide

/-- The number of command bits set. -/
theorem Con.popcount_commands (c : Con) :
    popcount c.commands = c.sen.toNat + c.rsen.toNat + c.pen.toNat + c.rcen.toNat + c.acken.toNat := by
  obtain ⟨a, b, d, e, f, g⟩ := c
  revert a b d e f g
  decide

/-- Idle, field by field (R31). -/
theorem State.idle_iff (s : State) :
    s.idle = true ↔
      s.con.sen = false ∧ s.con.rsen = false ∧ s.con.pen = false ∧ s.con.rcen = false ∧ s.con.acken = false ∧
        s.stat.trstat = false := by
  simp [State.idle, Con.commands_eq_zero, and_assoc]

/-- Idle depends on the command bits and TRSTAT alone. -/
theorem State.idle_congr (s t : State) (hc : t.con.commands = s.con.commands) (ht : t.stat.trstat = s.stat.trstat) :
    t.idle = s.idle := by
  simp [State.idle, hc, ht]

/-- The mode is IDLE exactly when the engine is idle. -/
theorem State.mode_idle_iff (s : State) : s.mode = .idle ↔ s.idle = true := by
  by_cases h : s.idle = true
  · simp [State.mode, h]
  · simp only [State.mode, h]
    repeat' split
    all_goals simp_all

/-! The mode by the bits that decide it (R32), in the order in which `State.mode` looks at them. -/

theorem State.mode_starting (s : State) (h : s.con.sen = true) : s.mode = .starting := by
  have : s.idle = false := by simp [← Bool.not_eq_true, State.idle_iff, h]
  simp [State.mode, this, h]

theorem State.mode_restarting (s : State) (h0 : s.con.sen = false) (h : s.con.rsen = true) : s.mode = .restarting := by
  have : s.idle = false := by simp [← Bool.not_eq_true, State.idle_iff, h]
  simp [State.mode, this, h0, h]

theorem State.mode_stopping (s : State) (h0 : s.con.sen = false) (h1 : s.con.rsen = false) (h : s.con.pen = true) :
    s.mode = .stopping := by
  have : s.idle = false := by simp [← Bool.not_eq_true, State.idle_iff, h]
  simp [State.mode, this, h0, h1, h]

theorem State.mode_tx (s : State) (h0 : s.con.sen = false) (h1 : s.con.rsen = false) (h2 : s.con.pen = false)
    (h : s.stat.trstat = true) : s.mode = if s.stat.tbf then .txData else .txAck := by
  have : s.idle = false := by simp [← Bool.not_eq_true, State.idle_iff, h]
  simp [State.mode, this, h0, h1, h2, h]

theorem State.mode_receiving (s : State) (h0 : s.con.sen = false) (h1 : s.con.rsen = false) (h2 : s.con.pen = false)
    (h3 : s.stat.trstat = false) (h : s.con.rcen = true) : s.mode = .receiving := by
  have : s.idle = false := by simp [← Bool.not_eq_true, State.idle_iff, h]
  simp [State.mode, this, h0, h1, h2, h3, h]

theorem State.mode_masterAck (s : State) (h0 : s.con.sen = false) (h1 : s.con.rsen = false) (h2 : s.con.pen = false)
    (h3 : s.stat.trstat = false) (h4 : s.con.rcen = false) (h : s.con.acken = true) : s.mode = .masterAck := by
  have : s.idle = false := by simp [← Bool.not_eq_true, State.idle_iff, h]
  simp [State.mode, this, h0, h1, h2, h3, h4]

end Sys2Proof.Machine
end

