-- ==== Sys2Proof/Laws/Host.lean ====
section
/-! SUPPORT. What the operations of host expressions and conditions give on the values they are defined for. -/

namespace Sys2Proof.Machine

@[simp] theorem intTruth_zero : intTruth 0 = false := rfl
@[simp] theorem intTruth_one : intTruth 1 = true := rfl
@[simp] theorem intTruth_truth (b : Bool) : intTruth (truth b) = b := by cases b <;> rfl
@[simp] theorem HostValue.toInt_int (n : Int) : (HostValue.int n).toInt = n := rfl
@[simp] theorem HostValue.toInt_status (n : StatusName) : (HostValue.status n).toInt = Config.statusInt n := rfl

/-- On integers that are not negative, a bit by bit operation is that of the natural numbers. -/
@[simp] theorem onNaturals_natCast (op : HostOp) (f : Nat → Nat → Nat) (m n : Nat) :
    onNaturals op f (m : Int) (n : Int) = (f m n : Nat) := rfl

end Sys2Proof.Machine
end

