-- ==== Sys2Proof/Laws/Ops.lean ====
section
/-! SUPPORT. For each shared operation, once, everything it can do. Provers cite these in place of unfolding. -/

namespace Sys2Proof.Machine

/-! ### Outcomes -/

@[simp] theorem onNext_next (f : State → State) (s : State) : onNext f (.next s) = .next (f s) := rfl
@[simp] theorem onNext_fault (f : State → State) (r : Fault) : onNext f (.fault r) = .fault r := rfl
@[simp] theorem onNext_refused (f : State → State) (r : Refusal) : onNext f (.refused r) = .refused r := rfl

/-- A next state of `onNext` is the function of a next state. -/
theorem onNext_eq_next {f : State → State} {r : Result} {t : State} (h : onNext f r = .next t) :
    ∃ u, r = .next u ∧ t = f u := by
  cases r with
  | next u => exact ⟨u, rfl, by simpa using h.symm⟩
  | fault _ => simp at h
  | refused _ => simp at h

/-! ### The end of a run -/

/-- Closing a run changes `ended` and one mark at most. -/
theorem closeRun_cases (s : State) :
    s.closeRun = s ∨
      (s.host.hasReturned = true ∧ s.idle = true ∧ s.ended = false ∧
        s.closeRun = { s with ended := true, marks.busHeldAtEnd := s.marks.busHeldAtEnd || s.stat.s }) := by
  unfold State.closeRun
  split
  · rename_i h
    simp only [Bool.and_eq_true, Bool.not_eq_true'] at h
    exact .inr ⟨h.1.1, h.1.2, h.2, rfl⟩
  · exact .inl rfl

@[simp] theorem State.closeRun_con (s : State) : s.closeRun.con = s.con := by
  obtain h | ⟨-, -, -, h⟩ := closeRun_cases s <;> rw [h]
@[simp] theorem State.closeRun_stat (s : State) : s.closeRun.stat = s.stat := by
  obtain h | ⟨-, -, -, h⟩ := closeRun_cases s <;> rw [h]
@[simp] theorem State.closeRun_trn (s : State) : s.closeRun.trn = s.trn := by
  obtain h | ⟨-, -, -, h⟩ := closeRun_cases s <;> rw [h]
@[simp] theorem State.closeRun_rcv (s : State) : s.closeRun.rcv = s.rcv := by
  obtain h | ⟨-, -, -, h⟩ := closeRun_cases s <;> rw [h]
@[simp] theorem State.closeRun_raw (s : State) : s.closeRun.raw = s.raw := by
  obtain h | ⟨-, -, -, h⟩ := closeRun_cases s <;> rw [h]
@[simp] theorem State.closeRun_unit (s : State) : s.closeRun.unit = s.unit := by
  obtain h | ⟨-, -, -, h⟩ := closeRun_cases s <;> rw [h]
@[simp] theorem State.closeRun_tickf (s : State) : s.closeRun.tickf = s.tickf := by
  obtain h | ⟨-, -, -, h⟩ := closeRun_cases s <;> rw [h]
@[simp] theorem State.closeRun_tickcnt (s : State) : s.closeRun.tickcnt = s.tickcnt := by
  obtain h | ⟨-, -, -, h⟩ := closeRun_cases s <;> rw [h]
@[simp] theorem State.closeRun_evt (s : State) : s.closeRun.evt = s.evt := by
  obtain h | ⟨-, -, -, h⟩ := closeRun_cases s <;> rw [h]
@[simp] theorem State.closeRun_ackl (s : State) : s.closeRun.ackl = s.ackl := by
  obtain h | ⟨-, -, -, h⟩ := closeRun_cases s <;> rw [h]
@[simp] theorem State.closeRun_rel (s : State) : s.closeRun.rel = s.rel := by
  obtain h | ⟨-, -, -, h⟩ := closeRun_cases s <;> rw [h]
@[simp] theorem State.closeRun_xaddr (s : State) : s.closeRun.xaddr = s.xaddr := by
  obtain h | ⟨-, -, -, h⟩ := closeRun_cases s <;> rw [h]
@[simp] theorem State.closeRun_dir (s : State) : s.closeRun.dir = s.dir := by
  obtain h | ⟨-, -, -, h⟩ := closeRun_cases s <;> rw [h]
@[simp] theorem State.closeRun_mackp (s : State) : s.closeRun.mackp = s.mackp := by
  obtain h | ⟨-, -, -, h⟩ := closeRun_cases s <;> rw [h]
@[simp] theorem State.closeRun_trace (s : State) : s.closeRun.trace = s.trace := by
  obtain h | ⟨-, -, -, h⟩ := closeRun_cases s <;> rw [h]
@[simp] theorem State.closeRun_faults (s : State) : s.closeRun.faults = s.faults := by
  obtain h | ⟨-, -, -, h⟩ := closeRun_cases s <;> rw [h]
@[simp] theorem State.closeRun_pins (s : State) : s.closeRun.pins = s.pins := by
  obtain h | ⟨-, -, -, h⟩ := closeRun_cases s <;> rw [h]
@[simp] theorem State.closeRun_readData (s : State) : s.closeRun.readData = s.readData := by
  obtain h | ⟨-, -, -, h⟩ := closeRun_cases s <;> rw [h]
@[simp] theorem State.closeRun_host (s : State) : s.closeRun.host = s.host := by
  obtain h | ⟨-, -, -, h⟩ := closeRun_cases s <;> rw [h]
@[simp] theorem State.closeRun_agenda (s : State) : s.closeRun.agenda = s.agenda := by
  obtain h | ⟨-, -, -, h⟩ := closeRun_cases s <;> rw [h]

/-! ### CON writes -/

/-- The five commands, with what each changes. -/
theorem startCommand_frame (k : Command) (s : State) :
    ∃ con marks xaddr ackl,
      startCommand k s = { s with con := con, marks := marks, xaddr := xaddr, ackl := ackl, mackp := false } := by
  refine ⟨(startCommand k s).con, (startCommand k s).marks, (startCommand k s).xaddr, (startCommand k s).ackl, ?_⟩
  cases k <;> simp [startCommand, startCmd, restartCmd, stopCmd, recvCmd, ackCmd]

/-- A CON write updates ACKDT; it then changes nothing more, or is refused with IWCOL, or starts, from idle, the one
command it newly sets. -/
theorem conWrite_cases (f : AliasFn) (d : Word) (s : State) :
    let s1 := { s with con.ackdt := conAckdt f d s.con }
    conWrite f d s = s1 ∨ conWrite f d s = s1.refuseWrite ∨
      (s.idle = true ∧ ∃ k, Command.ofReq (conRequest f d s.con) = some k ∧ conWrite f d s = startCommand k s1) := by
  simp only [conWrite]
  split
  · exact .inl rfl
  · split
    · exact .inr (.inl rfl)
    · split
      · exact .inr (.inl rfl)
      · rename_i h
        split
        · rename_i k hk
          exact .inr (.inr ⟨by simpa using h, k, hk, rfl⟩)
        · exact .inl rfl

/-- The fields a CON write may change. -/
theorem conWrite_frame (f : AliasFn) (d : Word) (s : State) :
    ∃ con iwcol marks xaddr ackl mackp,
      conWrite f d s =
        { s with con := con, stat.iwcol := iwcol, marks := marks, xaddr := xaddr, ackl := ackl, mackp := mackp } := by
  obtain h | h | ⟨-, k, -, h⟩ := conWrite_cases f d s
  · exact ⟨_, s.stat.iwcol, s.marks, s.xaddr, s.ackl, s.mackp, h⟩
  · exact ⟨_, true, s.marks, s.xaddr, s.ackl, s.mackp, h⟩
  · obtain ⟨con, marks, xaddr, ackl, e⟩ := startCommand_frame k { s with con.ackdt := conAckdt f d s.con }
    exact ⟨con, s.stat.iwcol, marks, xaddr, ackl, false, h.trans e⟩

/-! ### TRN writes -/

/-- A TRN write is refused with IWCOL while busy; from idle it sends the byte. -/
theorem trnWrite_cases (d : Word) (s : State) :
    (s.idle = false ∧ trnWrite d s = s.refuseWrite) ∨
      (s.idle = true ∧ ∃ marks dir,
        trnWrite d s =
          { s with trn := trnData d, stat := { s.stat with tbf := true, trstat := true }, marks := marks, dir := dir,
                   xaddr := false, mackp := false }) := by
  by_cases h : s.idle = true
  · refine .inr ⟨h, (trnWrite d s).marks, (trnWrite d s).dir, ?_⟩
    simp [trnWrite, h, trnMarks]
  · simp only [Bool.not_eq_true] at h
    exact .inl ⟨h, by simp [trnWrite, h]⟩

/-! ### Instructions -/

/-- What no CON write changes (the list of `exec_keeps`). -/
theorem conWrite_keeps (f : AliasFn) (d : Word) {s t : State} (h : t = conWrite f d s) :
    t.rcv = s.rcv ∧ t.rel = s.rel ∧ t.evt.armed = s.evt.armed ∧ t.stat.ackstat = s.stat.ackstat ∧ t.stat.s = s.stat.s ∧
      t.stat.p = s.stat.p ∧ t.pins = s.pins ∧ t.trace = s.trace ∧ t.faults = s.faults ∧ t.host = s.host ∧
      t.ended = s.ended ∧ t.agenda = s.agenda := by
  obtain ⟨_, _, _, _, _, _, e⟩ := conWrite_frame f d s
  simp [h, e]

/-- What no instruction changes: RCV, REL, ARMED, ACKSTAT, S, P, the pins, the trace, the faults and the host's side. -/
theorem exec_keeps {i : Instr} {s t : State} (h : exec i s = .next t) :
    t.rcv = s.rcv ∧ t.rel = s.rel ∧ t.evt.armed = s.evt.armed ∧ t.stat.ackstat = s.stat.ackstat ∧ t.stat.s = s.stat.s ∧
      t.stat.p = s.stat.p ∧ t.pins = s.pins ∧ t.trace = s.trace ∧ t.faults = s.faults ∧ t.host = s.host ∧
      t.ended = s.ended ∧ t.agenda = s.agenda := by
  cases i
  case wrCon d => exact conWrite_keeps .whole d (by simpa [exec, execWrCon] using h.symm)
  case wrConclr d => exact conWrite_keeps .clr d (by simpa [exec, execWrConclr] using h.symm)
  case wrConset d => exact conWrite_keeps .set d (by simpa [exec, execWrConset] using h.symm)
  case wrConinv d => exact conWrite_keeps .inv d (by simpa [exec, execWrConinv] using h.symm)
  case wrTrn d =>
    simp only [exec, execWrTrn, Host.Outcome.next.injEq] at h
    subst h
    obtain ⟨-, e⟩ | ⟨-, _, _, e⟩ := trnWrite_cases d s <;> rw [e] <;> simp
  all_goals
    simp only [exec, Host.Outcome.next.injEq, execRdCon, execRdStat, execRdTrn, execRdRcv, execRdRaw, execRdCel, execRdUnit,
      execRdConv, execRdTick, execRdTickcnt, execRdIn, execRdEvt, execWrStat, execWrStatclr, execWrStatset, execWrStatinv,
      execWrRaw, execWrUnit, execWrTickcnt, statWrite] at h
    subst h
    simp

/-! ### The environment's steps -/

/-- A BUS step is enabled in every mode but IDLE and is then the step of the mode. -/
theorem busStep_cases {c : Config} {d : BusDraw} {s t : State} (h : busStep c d s = .next t) :
    (s.mode = .starting ∧ t = busStart s) ∨ (s.mode = .restarting ∧ t = busRestart s) ∨
      (s.mode = .stopping ∧ t = busStop s) ∨ (s.mode = .txData ∧ t = busTxData s) ∨
      (s.mode = .txAck ∧ t = busTxAck d.ack s) ∨ (s.mode = .receiving ∧ t = busReceive c.ovfRcv d s) ∨
      (s.mode = .masterAck ∧ t = busMasterAck s) := by
  unfold busStep at h
  split at h <;> simp_all

/-- What the debouncer's sampling can do: REL counts, ARMED is set, or an event fires; nothing else changes. -/
theorem debounceSample_frame (settle : Nat) (v : Byte) (s : State) :
    ∃ evt rel, debounceSample settle v s = { s with evt := evt, rel := rel } := by
  unfold debounceSample sampleArmed sampleUnarmed
  repeat' split
  all_goals exact ⟨_, _, rfl⟩

/-- A tick sets TICKF and lets the debouncer sample the pins; nothing else changes. -/
theorem tickStep_frame (c : Config) (s : State) :
    tickStep c s =
      { s with
        tickf := true
        evt := (debounceSample c.settleTicks s.pins s).evt
        rel := (debounceSample c.settleTicks s.pins s).rel } := by
  simp only [tickStep, debounceSample, sampleArmed, sampleUnarmed]
  repeat' split
  all_goals rfl

/-! ### Agent steps -/

/-- An accepted or reserved packet: an instruction, or a recorded fault. -/
theorem runPacket_cases (p : Packet) (s : State) :
    (∃ i, decode p = .ok i ∧ runPacket p s = exec i s) ∨
      ((∀ i, decode p ≠ .ok i) ∧ runPacket p s = .next (s.recordFault (.reserved p))) := by
  unfold runPacket
  cases h : decode p with
  | ok i => exact .inl ⟨i, rfl, rfl⟩
  | error e => exact .inr ⟨by simp, rfl⟩

/-- A step of the host program: an instruction on the state with the host moved on, the read's value taken; or the host
alone is changed. -/
theorem hostStep_cases {c : Config} {s t : State} (h : hostStep c s = .next t) :
    (∃ h', t = { s with host := h' }) ∨
      ∃ i h' h'' u, performed c .host s = some i ∧ exec i { s with host := h' } = .next u ∧ t = { u with host := h'' } := by
  unfold hostStep at h
  split at h
  · simp at h
  · simp at h
  · rename_i f callers hh
    split at h
    · exact .inl ⟨_, by simpa using h.symm⟩
    · rename_i st todo ht
      simp only at h
      split at h
      case h_1 x r =>
        obtain ⟨u, hu, e⟩ := onNext_eq_next h
        refine .inr ⟨r.instr, _, (u.takeRead x).host, u, by simp [performed, hh, ht], hu, ?_⟩
        rw [e]
        unfold State.takeRead
        split <;> rfl
      case h_2 r v =>
        exact .inr ⟨_, _, t.host, t, by simp only [performed, hh, ht], h, rfl⟩
      all_goals exact .inl ⟨_, by simpa using h.symm⟩

/-- Every agent step: it performs an instruction on the state, its host moved on at most; or it records a fault; or it
changes the host alone; or it is a step of the environment or a reset. -/
theorem agentStep_cases {c : Config} {a : AgentStep} {s t : State} (h : agentStep c a s = .next t) :
    (∃ i h' h'' u, performed c a s = some i ∧ exec i { s with host := h' } = .next u ∧ t = { u with host := h'' }) ∨
      (∃ f, t = s.recordFault f) ∨ (∃ h', t = { s with host := h' }) ∨ (∃ d, a = .bus d ∧ busStep c d s = .next t) ∨
      (a = .tick ∧ t = tickStep c s) ∨ (∃ v, a = .pins v ∧ t = pinsStep v s) ∨ (a = .reset ∧ t = s.resetBlock) := by
  have pk : ∀ p, runPacket p s = .next t → ((decode p).toOption = performed c a s) →
      (∃ i h' h'' u, performed c a s = some i ∧ exec i { s with host := h' } = .next u ∧ t = { u with host := h'' }) ∨
        ∃ f, t = s.recordFault f := by
    intro p hp hd
    obtain ⟨i, hi, e⟩ | ⟨-, e⟩ := runPacket_cases p s
    · exact .inl ⟨i, s.host, t.host, t, by rw [← hd, hi]; rfl, e.symm.trans hp, rfl⟩
    · exact .inr ⟨_, by simpa using (e.symm.trans hp).symm⟩
  cases a with
  | packet p =>
    obtain h' | h' := pk p h rfl
    · exact .inl h'
    · exact .inr (.inl h')
  | access x =>
    simp only [agentStep, runAccess] at h
    split at h
    · exact .inr (.inr (.inl ⟨s.host, by simpa using h.symm⟩))
    · rename_i hw
      split at h
      · exact .inr (.inl ⟨_, by simpa using h.symm⟩)
      · rename_i hf
        obtain h' | h' := pk _ h (by simp_all [performed])
        · exact .inl h'
        · exact .inr (.inl h')
  | host =>
    obtain h' | h' := hostStep_cases h
    · exact .inr (.inr (.inl h'))
    · exact .inl h'
  | bus d => exact .inr (.inr (.inr (.inl ⟨d, rfl, h⟩)))
  | tick => exact .inr (.inr (.inr (.inr (.inl ⟨rfl, by simpa [agentStep] using h.symm⟩))))
  | pins v => exact .inr (.inr (.inr (.inr (.inr (.inl ⟨v, rfl, by simpa [agentStep] using h.symm⟩)))))
  | reset => exact .inr (.inr (.inr (.inr (.inr (.inr ⟨rfl, by simpa [agentStep] using h.symm⟩)))))

/-- An agent step of a run is one of the agent's, then the run is closed. -/
theorem stepAs_cases {c : Config} {a : AgentStep} {s t : State} (h : stepAs c a s = .next t) :
    ∃ u, agentStep c a s = .next u ∧ t = u.closeRun := onNext_eq_next h

/-- A step takes the first agent step of the agenda and then closes the run. -/
theorem stepWith_cases {c : Config} {s t : State} (h : stepWith c s = .next t) :
    ∃ a rest u, s.agenda = a :: rest ∧ agentStep c a { s with agenda := rest } = .next u ∧ t = u.closeRun := by
  unfold stepWith at h
  split at h
  · simp at h
  · rename_i a rest ha
    obtain ⟨u, hu, e⟩ := stepAs_cases h
    exact ⟨a, rest, u, ha, hu, e⟩

/-! ### Runs -/

/-- A run that starts with an agent step takes it and goes on. -/
theorem runAgents_cons {c : Config} {a : AgentStep} {rest : List AgentStep} {s t : State} :
    runAgents c (a :: rest) s = .next t ↔ ∃ u, stepAs c a s = .next u ∧ runAgents c rest u = .next t := by
  simp only [runAgents]
  cases stepAs c a s <;> simp

/-- A run of two lists is a run of the one and then of the other. -/
theorem runAgents_append {c : Config} {xs ys : List AgentStep} {s t : State} :
    runAgents c (xs ++ ys) s = .next t ↔ ∃ u, runAgents c xs s = .next u ∧ runAgents c ys u = .next t := by
  induction xs generalizing s with
  | nil => simp [runAgents]
  | cons a xs ih =>
    rw [List.cons_append, runAgents_cons]
    simp only [runAgents_cons, ih]
    constructor
    · rintro ⟨u, hu, v, hv, hy⟩
      exact ⟨v, ⟨u, hu, hv⟩, hy⟩
    · rintro ⟨v, ⟨u, hu, hv⟩, hy⟩
      exact ⟨u, hu, v, hv, hy⟩

/-- The samples of a run whose first agent step is taken. -/
theorem tickSamples_cons {c : Config} {a : AgentStep} {rest : List AgentStep} {s t : State} (h : stepAs c a s = .next t) :
    tickSamples c (a :: rest) s = (if a = .tick then [s.pins] else []) ++ tickSamples c rest t := by
  simp [tickSamples, h]

end Sys2Proof.Machine
end

