-- ==== Sys2Proof/Laws/PerInstr.lean ====
section
/-! SUPPORT. Statements for all instructions, one lemma for each constructor. -/

namespace Sys2Proof.Laws.OpcodeByte

/-- The opcode byte is {W, 00, IDX} with IDX the word index of the register accessed, and the decoder's table gives the
instruction back from it and the operand (R64, R65). -/
def Statement (i : Instr) : Prop :=
  decodeFields i.opb i.data = .ok i ∧ i.opb.getLsbD 7 = i.isWrite ∧ i.opb.getLsbD 6 = false ∧
    i.opb.getLsbD 5 = false ∧ 4 * (i.opb.toNat % 32) = i.offset

theorem rdCon : Statement .rdCon := ⟨rfl, rfl, rfl, rfl, rfl⟩
theorem rdStat : Statement .rdStat := ⟨rfl, rfl, rfl, rfl, rfl⟩
theorem rdTrn : Statement .rdTrn := ⟨rfl, rfl, rfl, rfl, rfl⟩
theorem rdRcv : Statement .rdRcv := ⟨rfl, rfl, rfl, rfl, rfl⟩
theorem rdRaw : Statement .rdRaw := ⟨rfl, rfl, rfl, rfl, rfl⟩
theorem rdCel : Statement .rdCel := ⟨rfl, rfl, rfl, rfl, rfl⟩
theorem rdUnit : Statement .rdUnit := ⟨rfl, rfl, rfl, rfl, rfl⟩
theorem rdConv : Statement .rdConv := ⟨rfl, rfl, rfl, rfl, rfl⟩
theorem rdTick : Statement .rdTick := ⟨rfl, rfl, rfl, rfl, rfl⟩
theorem rdTickcnt : Statement .rdTickcnt := ⟨rfl, rfl, rfl, rfl, rfl⟩
theorem rdIn : Statement .rdIn := ⟨rfl, rfl, rfl, rfl, rfl⟩
theorem rdEvt : Statement .rdEvt := ⟨rfl, rfl, rfl, rfl, rfl⟩
theorem wrCon (d : Word) : Statement (.wrCon d) := by
  simp [Statement, decodeFields, Instr.opb, Instr.data, Instr.isWrite, Instr.offset]
theorem wrConclr (d : Word) : Statement (.wrConclr d) := by
  simp [Statement, decodeFields, Instr.opb, Instr.data, Instr.isWrite, Instr.offset]
theorem wrConset (d : Word) : Statement (.wrConset d) := by
  simp [Statement, decodeFields, Instr.opb, Instr.data, Instr.isWrite, Instr.offset]
theorem wrConinv (d : Word) : Statement (.wrConinv d) := by
  simp [Statement, decodeFields, Instr.opb, Instr.data, Instr.isWrite, Instr.offset]
theorem wrStat (d : Word) : Statement (.wrStat d) := by
  simp [Statement, decodeFields, Instr.opb, Instr.data, Instr.isWrite, Instr.offset]
theorem wrStatclr (d : Word) : Statement (.wrStatclr d) := by
  simp [Statement, decodeFields, Instr.opb, Instr.data, Instr.isWrite, Instr.offset]
theorem wrStatset (d : Word) : Statement (.wrStatset d) := by
  simp [Statement, decodeFields, Instr.opb, Instr.data, Instr.isWrite, Instr.offset]
theorem wrStatinv (d : Word) : Statement (.wrStatinv d) := by
  simp [Statement, decodeFields, Instr.opb, Instr.data, Instr.isWrite, Instr.offset]
theorem wrTrn (d : Word) : Statement (.wrTrn d) := by
  simp [Statement, decodeFields, Instr.opb, Instr.data, Instr.isWrite, Instr.offset]
theorem wrRaw (d : Word) : Statement (.wrRaw d) := by
  simp [Statement, decodeFields, Instr.opb, Instr.data, Instr.isWrite, Instr.offset]
theorem wrUnit (d : Word) : Statement (.wrUnit d) := by
  simp [Statement, decodeFields, Instr.opb, Instr.data, Instr.isWrite, Instr.offset]
theorem wrTickcnt (d : Word) : Statement (.wrTickcnt d) := by
  simp [Statement, decodeFields, Instr.opb, Instr.data, Instr.isWrite, Instr.offset]

end Sys2Proof.Laws.OpcodeByte
end

