-- ==== Sys2Proof/Tests/Slice0.lean ====
section
/-! SUPPORT. Tests: words written out from the spec's encoding, the ill-formed terms the checks refuse, one-step vectors
of 95_test_vectors.md (their ids stand in the docstrings), and for every statement with hypotheses a witness that meets
them. Expected values come from spec/, never from the model. -/

namespace Sys2Proof.Tests

open Sys2Proof Sys2Proof.Machine

/-- The next state, where there is one. -/
def nextOf : Result → Option State
  | .next t => some t
  | .fault _ => none
  | .refused _ => none

/-- The state after an instruction. -/
def after (i : Instr) (s : State) : State :=
  match exec i s with
  | .next t => t
  | .fault _ => s
  | .refused _ => s

/-- What a read returns. -/
def reads (i : Instr) (s : State) : Option Word := (after i s).readData

/-- The right-after-reset state. -/
def fresh : State := State.reset

/-- A START is pending. -/
def starting : State := { fresh with con.sen := true, xaddr := true }

/-- The bus is held after a START: the next byte is the address byte. -/
def held : State := { fresh with stat.s := true, xaddr := true, trace := [.start] }

/-- A read-direction address byte has been sent. -/
def reading : State := { fresh with stat.s := true, dir := true }

/-- A byte is being sent; its data bits are still to come. -/
def sending : State := { held with trn := 0x90, stat.tbf := true, stat.trstat := true, xaddr := false }

/-- The reference parameters with BASE = 0x80. -/
def cfg : Config := Config.reference 1

/-- The draws of a BUS step. -/
def draw (ack : Bool) (byte overflow : Byte) : BusDraw := ⟨ack, byte, overflow⟩

/-! ### Decoding: words written out from the table of R65 -/

theorem test_decode_reads :
    decode 0x0000000000 = .ok .rdCon ∧ decode 0x0400000000 = .ok .rdStat ∧ decode 0x0800000000 = .ok .rdTrn ∧
    decode 0x0900000000 = .ok .rdRcv ∧ decode 0x1000000000 = .ok .rdRaw ∧ decode 0x1100000000 = .ok .rdCel ∧
    decode 0x1200000000 = .ok .rdUnit ∧ decode 0x1300000000 = .ok .rdConv ∧ decode 0x1800000000 = .ok .rdTick ∧
    decode 0x1900000000 = .ok .rdTickcnt ∧ decode 0x1A00000000 = .ok .rdIn ∧ decode 0x1B00000000 = .ok .rdEvt := by
  decide

theorem test_decode_con_stat_writes :
    decode 0x8000000024 = .ok (.wrCon 0x24) ∧ decode 0x8100000020 = .ok (.wrConclr 0x20) ∧
    decode 0x8200000001 = .ok (.wrConset 0x1) ∧ decode 0x8300000024 = .ok (.wrConinv 0x24) ∧
    decode 0x840000FFFF = .ok (.wrStat 0xFFFF) ∧ decode 0x8500000040 = .ok (.wrStatclr 0x40) ∧
    decode 0x8600000080 = .ok (.wrStatset 0x80) ∧ decode 0x87000000C0 = .ok (.wrStatinv 0xC0) := by
  decide

theorem test_decode_other_writes :
    decode 0x8800000090 = .ok (.wrTrn 0x90) ∧ decode 0x9000001980 = .ok (.wrRaw 0x1980) ∧
    decode 0x9200000002 = .ok (.wrUnit 0x2) ∧ decode 0x99FFFFFFFF = .ok (.wrTickcnt 0xFFFFFFFF) := by
  decide

/-- R64: DATA is "ignored" by a read. -/
theorem test_decode_read_ignores_data : decode 0x04FFFFFFFF = .ok .rdStat := by decide

/-- FV3 to FV7. -/
theorem test_decode_reserved :
    decode 0x0100000000 = .error (.reservedOpcode 0x01) ∧ decode 0x9100000000 = .error (.reservedOpcode 0x91) ∧
    decode 0x2000000000 = .error (.reservedOpcode 0x20) ∧ decode 0x0A00000000 = .error (.reservedOpcode 0x0A) ∧
    decode 0x8900000000 = .error (.reservedOpcode 0x89) ∧ decode 0xFFFFFFFFFF = .error (.reservedOpcode 0xFF) := by
  decide

theorem test_table_word :
    decodeTableWord 40 0x8200000001 = some (.wrConset 0x1) ∧ decodeTableWord 40 0x0100000000 = none ∧
    decodeTableWord 48 0x018200000001 = none := by
  decide

/-- R71: the packet of a written instruction. -/
theorem test_encode : encode (.wrConset 0x1) = 0x8200000001 ∧ encode .rdStat = 0x0400000000 := by decide

/-! ### Well-formedness: an ill-formed term for each check -/

theorem test_wf_access_width : HostAccess.wellFormed ⟨0x90, 8, none⟩ = false := by decide
theorem test_wf_access_alignment : HostAccess.wellFormed ⟨0x8A, 32, some 0⟩ = false := by decide
theorem test_wf_access : HostAccess.wellFormed ⟨0x90, 32, none⟩ = true := by decide
theorem test_wf_write_too_wide : (HostStmt.write .trn (.lit 0x100000000)).wellFormed = false := by decide
theorem test_wf_write_negative : (HostStmt.write .trn (.lit (-1))).wellFormed = false := by decide
theorem test_wf_write_status : (HostStmt.write .raw (.status .nack)).wellFormed = false := by decide
theorem test_wf_send_too_wide : (HostStmt.call none .i2cSend (.lit 256)).wellFormed = false := by decide
theorem test_wf_nested :
    (HostStmt.seq .nop (.ifThen (.lit 1) (.doUntil (.write .con (.lit (-1))) (.lit 1)))).wellFormed = false := by decide
theorem test_wf_program : exampleP2.wellFormed = true ∧ (sensorRead cfg).wellFormed = true := by decide

/-! ### CON -/

/-- K1 and the example of R86. -/
theorem test_rdCon : reads .rdCon starting = some 0x1 ∧ (after .rdCon starting).con = starting.con := by decide

/-- K8. -/
theorem test_wrCon_stop :
    reads .rdCon (after (.wrCon 0x24) fresh) = some 0x24 ∧ (after (.wrCon 0x24) fresh).mode = .stopping := by decide

/-- K6 and K18. -/
theorem test_wrCon_keeps_pending :
    (after (.wrCon 0x0) starting).con = starting.con ∧ (after (.wrCon 0x0) starting).stat = starting.stat ∧
    after (.wrCon 0xFFFFFFC0) fresh = fresh := by decide

/-- K10. -/
theorem test_wrConclr : after (.wrConclr 0x20) { fresh with con.ackdt := true } = fresh := by decide

/-- R89: clearing a command bit in progress has no effect. -/
theorem test_wrConclr_pending : after (.wrConclr 0x1F) starting = starting := by decide

/-- K1 and K4. -/
theorem test_wrConset_start :
    (after (.wrConset 0x1) fresh).mode = .starting ∧ (after (.wrConset 0x1) fresh).xaddr = true ∧
    after (.wrConset 0x3) fresh = { fresh with stat.iwcol := true } := by decide

/-- K11: ACKDT is applied before the command latches it. -/
theorem test_wrConset_nack :
    (after (.wrConset 0x30) fresh).ackl = true ∧ (after (.wrConset 0x30) fresh).marks.noRxToAck = true ∧
    reads .rdCon (after (.wrConset 0x30) fresh) = some 0x30 := by decide

/-- K9. -/
theorem test_wrConinv_stop :
    reads .rdCon (after (.wrConinv 0x24) { fresh with con.ackdt := true }) = some 0x04 := by decide

/-- K5. -/
theorem test_wrConinv_two : after (.wrConinv 0x5) fresh = { fresh with stat.iwcol := true } := by decide

/-- K3 and K13: refused while busy; ACKDT is updated all the same. -/
theorem test_con_busy :
    after (.wrConset 0x4) starting = { starting with stat.iwcol := true } ∧
    after (.wrConset 0x20) starting = { starting with con.ackdt := true } := by decide

/-- T12, T13 and T14: the marks of a STOP and of two receives. -/
theorem test_command_marks :
    (after (.wrConset 0x4) { reading with mackp := true }).marks = { Marks.none with noMasterAck := true } ∧
    (after (.wrConset 0x8) held).marks = { Marks.none with dirMismatch := true } ∧
    (after (.wrConset 0x8) fresh).marks = { Marks.none with noTransaction := true } := by decide

/-! ### STAT -/

/-- The example of R97. -/
theorem test_rdStat :
    reads .rdStat { fresh with stat.s := true, stat.ackstat := true } = some 0x8008 ∧ reads .rdStat sending = some 0x4009 := by
  decide

/-- S1. -/
theorem test_wrStat : reads .rdStat (after (.wrStat 0xFFFF) fresh) = some 0xC0 := by decide

/-- S3. -/
theorem test_wrStatclr :
    reads .rdStat (after (.wrStatclr 0x40) { held with stat.rbf := true, stat.i2cov := true }) = some 0x0A := by decide

/-- S6. -/
theorem test_wrStatclr_read_only : after (.wrStatclr 0x4009) sending = sending := by decide

/-- S4. -/
theorem test_wrStatset : reads .rdStat (after (.wrStatset 0x80) held) = some 0x88 := by decide

/-- S5. -/
theorem test_wrStatinv : reads .rdStat (after (.wrStatinv 0xC0) { fresh with stat.i2cov := true }) = some 0x80 := by decide

/-! ### TRN, RCV and the BUS steps -/

/-- T1. -/
theorem test_wrTrn_address : after (.wrTrn 0x90) held = sending := by decide

/-- T5 and T6. -/
theorem test_wrTrn_mark_and_refusal :
    (after (.wrTrn 0x55) fresh).marks.noTransaction = true ∧ (after (.wrTrn 0x55) fresh).trn = 0x55 ∧
    after (.wrTrn 0x55) starting = { starting with stat.iwcol := true } := by decide

/-- T7. -/
theorem test_rdTrn :
    reads .rdTrn (after (.wrTrn 0x1FF) held) = some 0xFF ∧ (after (.wrTrn 0x1FF) held).dir = true := by decide

/-- T9 and T10. -/
theorem test_rdRcv :
    reads .rdRcv { reading with rcv := 0x19, stat.rbf := true } = some 0x19 ∧
    (after .rdRcv { reading with rcv := 0x19, stat.rbf := true }).stat = reading.stat ∧
    reads .rdRcv fresh = some 0 := by decide

/-- K2, K16 and K17. -/
theorem test_bus_framing :
    nextOf (busStep cfg (draw true 0 0) starting) = some held ∧
    (busRestart { fresh with con.rsen := true }).trace = [.restart] ∧
    (busStop { held with con.pen := true }).stat = { fresh.stat with p := true } := by decide

/-- T2, T3 and T4. -/
theorem test_bus_send :
    nextOf (busStep cfg (draw true 0 0) sending) = some { sending with stat.tbf := false } ∧
    (busTxAck false { sending with stat.tbf := false }).stat = held.stat ∧
    (busTxAck true { sending with stat.tbf := false }).trace = [.start, .tx 0x90 true] := by decide

/-- T8 and T11. -/
theorem test_bus_receive :
    (busReceive .any (draw false 0x19 0) { reading with con.rcen := true }).rcv = 0x19 ∧
    (busReceive .keepOld (draw false 0x22 0x33) { reading with con.rcen := true, rcv := 0x19, stat.rbf := true }).rcv = 0x19 ∧
    (busReceive .takeNew (draw false 0x22 0x33) { reading with con.rcen := true, rcv := 0x19, stat.rbf := true }).rcv = 0x22 ∧
    (busReceive .any (draw false 0x22 0x33) { reading with con.rcen := true, rcv := 0x19, stat.rbf := true }).stat =
      { reading.stat with rbf := true, i2cov := true } := by decide

/-- K12 and K14: the latched value is sent. -/
theorem test_bus_master_ack :
    (busMasterAck { fresh with con.acken := true, ackl := true }).trace = [.mack true] ∧
    (busMasterAck (after (.wrConset 0x20) { fresh with con.acken := true })).trace = [.mack false] := by decide

/-! ### Decoder and converter -/

/-- U5. -/
theorem test_raw : reads .rdRaw (after (.wrRaw 0xFFFF1980) fresh) = some 0x1980 := by decide

/-- DV18, DV19, DV21, DV27 and DV28. -/
theorem test_rdCel :
    celWord 0x1980 = 0x198 ∧ celWord 0x1908 = 0x190 ∧ celWord 0xFF80 = 0xFFFFFFF8 ∧ celWord 0x8000 = 0xFFFFF800 ∧
    celWord 0x7FF0 = 0x7FF ∧ reads .rdCel { fresh with raw := 0xFF80 } = some 0xFFFFFFF8 := by decide

/-- U2 and U4. -/
theorem test_unit :
    reads .rdUnit (after (.wrUnit 3) { fresh with unit := .fahrenheit }) = some 2 ∧
    reads .rdUnit (after (.wrUnit 0xFFFFFFFE) fresh) = some 2 ∧ reads .rdUnit fresh = some 0 := by decide

/-- V4, V11 and V12. -/
theorem test_rdConv :
    reads .rdConv { fresh with raw := 0x1980, unit := .fahrenheit } = some 0x79B8 ∧
    convWord 0x8000 .celsius = 0xFFFF3800 ∧ convWord 0x8000 .kelvin = 0xE2CC ∧ convWord 0x8000 .fahrenheit = 0xFFFECA00 ∧
    convWord 0x7FF0 .celsius = 0xC7E7 ∧ convWord 0x7FF0 .kelvin = 0x272B3 ∧ convWord 0x7FF0 .fahrenheit = 0x199D3 := by
  decide

/-! ### Tick and debounce -/

/-- The example of R128 and the wrap of R130. -/
theorem test_rdTick :
    after .rdTick { fresh with tickf := true, tickcnt := 7 } = { fresh with readData := some 1, tickcnt := 8 } ∧
    (after .rdTick { (after (.wrTickcnt 0xFFFFFFFF) fresh) with tickf := true }).tickcnt = 0 := by decide

theorem test_tickcnt : reads .rdTickcnt (after (.wrTickcnt 0xFFFFFFFF) fresh) = some 0xFFFFFFFF := by decide

/-- The example of R131. -/
theorem test_rdIn : reads .rdIn { fresh with pins := 0x14 } = some 0x14 := by decide

/-- The example of R132. -/
theorem test_rdEvt :
    reads .rdEvt { fresh with evt := ⟨0x04, true, false, false⟩ } = some 0x104 ∧
    after .rdEvt { fresh with evt := ⟨0x04, true, true, true⟩ } =
      { fresh with readData := some 0x704, evt := ⟨0, false, true, false⟩ } := by decide

/-- R134 with SETTLE_TICKS = 2: counting, arming, an event, a dropped event. -/
theorem test_debounce :
    debounceSample 2 0 fresh = { fresh with rel := 1 } ∧
    debounceSample 2 0 { fresh with rel := 1 } = { fresh with evt.armed := true } ∧
    debounceSample 2 0x04 { fresh with evt.armed := true } = { fresh with evt := ⟨0x04, true, false, false⟩ } ∧
    debounceSample 2 0x01 { fresh with evt := ⟨0x04, true, true, false⟩ } =
      { fresh with evt := ⟨0x04, true, false, true⟩ } := by decide

/-- R134 at the top of REL: SETTLE_TICKS = 255. -/
theorem test_debounce_longest :
    debounceSample 255 0 { fresh with rel := 254 } = { fresh with evt.armed := true } ∧
    debounceSample 255 0 { fresh with rel := 253 } = { fresh with rel := 254 } := by decide

/-! ### Accesses, faults, reset, the end of a run -/

/-- FV1 and FV2, BASE = 0x80. -/
theorem test_bad_access :
    nextOf (runAccess cfg ⟨0x90, 8, none⟩ fresh) = some { fresh with faults := [.badAccess 0x90 8] } ∧
    nextOf (runAccess cfg ⟨0x8A, 32, some 0⟩ fresh) = some { fresh with faults := [.badAccess 0x8A 32] } := by decide

/-- FV4. -/
theorem test_reserved :
    nextOf (runPacket 0x9100000000 fresh) = some { fresh with faults := [.reserved 0x9100000000] } := by decide

/-- R49: an access in the window is its packet; one outside is none. -/
theorem test_access :
    nextOf (runAccess cfg ⟨0x88, 32, some 0x1⟩ fresh) = nextOf (exec (.wrConset 0x1) fresh) ∧ nextOf (runAccess cfg ⟨0x100, 32, some 1⟩ fresh) = some fresh := by
  decide

/-- R155. -/
theorem test_reset : nextOf (agentStep cfg .reset { sending with pins := 0x04 }) = some { fresh with pins := 0x04 } := by decide

/-- R145. -/
theorem test_end_of_run :
    ({ held with host := .returned none }).closeRun.marks.busHeldAtEnd = true ∧
    ({ sending with host := .returned none }).closeRun.ended = false := by decide

/-- R72, R79: the address byte of R67, and a statement of a program. -/
theorem test_host :
    addressByte 0x48 false = 0x90 ∧ addressByte 0x48 true = 0x91 ∧ composeRaw 0x19 0x80 = 0x1980 ∧
    nextOf (hostStep cfg ({ fresh with host := .running ⟨[], [.write .conset (elit 0x10)], none⟩ [] })) =
      nextOf (exec (.wrConset 0x10) { fresh with host := .running ⟨[], [], none⟩ [] }) := by decide

/-- R9, R68, R77: the operations of host expressions on integers that are not negative. -/
theorem test_host_operations :
    evalOp .bor (evalOp .shl 0x19 8) 0x80 = 0x1980 ∧ evalOp .band (evalOp .shr 0x8008 15) 1 = 1 ∧
    evalOp .bxor 0x30 0x10 = 0x20 := by decide

/-- The word placed by withFetchWord runs in the next step. -/
theorem test_placed_word : nextOf (step (fresh.withFetchWord 40 0x9000001980)) = some { fresh with raw := 0x1980 } := by decide

/-! ### Witnesses: concrete states and operands that meet the hypotheses of each statement that has any -/

/-- The engine invariant by its parts. -/
def invB (s : State) : Bool :=
  decide (popcount s.con.commands ≤ 1) && (s.con.commands == 0 || (!s.stat.trstat && !s.stat.tbf)) &&
    (!s.stat.tbf || s.stat.trstat)

/-- The model state of a run of agent steps. -/
def ran (xs : List AgentStep) (s : State) : Option State := nextOf (runAgents cfg xs s)

/-- A test of every agent step of a run. -/
def alongB (p : AgentStep → State → Bool) : List AgentStep → State → Bool
  | [], _ => true
  | a :: rest, s =>
    p a s && match nextOf (stepAs cfg a s) with
      | some t => alongB p rest t
      | none => true

theorem alongB_sound {p : AgentStep → State → Bool} {P : AgentStep → State → Prop} (hp : ∀ a s, p a s = true → P a s)
    (xs : List AgentStep) (s : State) (h : alongB p xs s = true) : alongRun cfg P xs s := by
  induction xs generalizing s with
  | nil => trivial
  | cons a xs ih =>
    simp only [alongB, Bool.and_eq_true] at h
    refine ⟨hp a s h.1, fun t ht => ih t ?_⟩
    simpa [ht, nextOf] using h.2

/-- The step performs no host write. -/
def noWriteB (a : AgentStep) (s : State) : Bool := ((performed cfg a s).map Instr.isWrite).getD false == false

/-- The step is no reset and performs neither RD TICK nor a write. -/
def noTickReadB (a : AgentStep) (s : State) : Bool := a != .reset && performed cfg a s != some .rdTick && noWriteB a s

theorem noWriteB_sound (a : AgentStep) (s : State) (h : noWriteB a s = true) : noHostWrite cfg a s := by
  intro i hi
  simpa [noWriteB, hi] using h

theorem noTickReadB_sound (a : AgentStep) (s : State) (h : noTickReadB a s = true) : keepsTickCount cfg a s := by
  simp only [noTickReadB, Bool.and_eq_true, bne_iff_ne] at h
  exact ⟨h.1.1, h.1.2, fun d hd => by simpa [Instr.isWrite] using noWriteB_sound a s h.2 _ hd⟩

/-- A host program between the two reads: WAIT_IDLE. -/
def waiting : State := (held.loadProgram (waitIdle .unbounded))

theorem witness_DecodeOfEncodeIsTheInstruction : (Instr.wrTickcnt 0xFFFFFFFF).wellFormed = true := by decide

theorem witness_DecodeFollowsTheOpcodeTable :
    (opcodeRows.map (·.1)).length = 24 ∧ 0x00#8 ∈ opcodeRows.map (·.1) ∧ 0x99#8 ∈ opcodeRows.map (·.1) ∧
    (∀ row ∈ opcodeRows, row.1 ≠ Packet.opb 0x1CFFFFFFFF) ∧ ∀ row ∈ opcodeRows, row.1 ≠ Packet.opb 0xFF00000000 := by decide

theorem witness_StepRunsTheDecodedInstruction :
    (fresh.withFetchWord 40 0x1800000000).agenda = .packet 0x1800000000 :: [] ∧ decode 0x1800000000 = .ok .rdTick := by decide

theorem witness_PlacedWordRunsNext :
    0x99FFFFFFFF < 2 ^ 40 ∧ decodeTableWord 40 0x99FFFFFFFF = some (.wrTickcnt 0xFFFFFFFF) ∧
    decodeTableWord 40 0 = some .rdCon := by decide

theorem witness_ReservedPacketIsOnlyRecorded :
    (decode 0x0100000000).toOption = none ∧ (decode 0xFFFFFFFFFF).toOption = none := by decide

theorem witness_BadAccessIsOnlyRecorded :
    (0 < 0x80 ∧ (8 ≠ 32 ∨ 0 % 4 ≠ 0)) ∧ (0x7F < 0x80 ∧ (32 ≠ 32 ∨ 0x7F % 4 ≠ 0)) ∧ (0x7C < 0x80 ∧ (16 ≠ 32 ∨ 0x7C % 4 ≠ 0)) := by
  decide

theorem witness_AccessIsItsPacket :
    0 < 32 ∧ 31 < 32 ∧ 0x7F < cfg.base ∧ cfg.base + 0x80 ≤ 0x100 := by decide

theorem witness_UnusedDataBitsAreIgnored :
    (∀ k, k < 6 → (0x3F : Word).getLsbD k = (0xFFFFFFFF : Word).getLsbD k) ∧
    (0xC0 : Word).getLsbD 6 = (0xFFFFFFFF : Word).getLsbD 6 ∧ (0xC0 : Word).getLsbD 7 = (0xFFFFFFFF : Word).getLsbD 7 ∧
    (0xFF : Word).toNat % 256 = (0xFFFFFFFF : Word).toNat % 256 ∧
    (0xFFFF : Word).toNat % 65536 = (0xFFFFFFFF : Word).toNat % 65536 ∧ (3 : Word).toNat % 4 = (0xFFFFFFFF : Word).toNat % 4 := by
  decide

theorem witness_ConWriteWithoutAnAcceptedCommand :
    (∀ k, k < 5 → newlySet .set 0x20 fresh.con k = false) ∧
    (0 < 4 ∧ newlySet .inv 0x11 fresh.con 0 = true ∧ newlySet .inv 0x11 fresh.con 4 = true) ∧
    (starting.idle = false ∧ newlySet .whole 0x10 starting.con 4 = true) := by decide

/-- For the five command statements, each with an alias function. -/
theorem witness_StartCommandAndItsBusStep : held.idle = true ∧ newlySetsOnly .set 0x1 held.con 0 := by
  unfold newlySetsOnly
  decide

theorem witness_RestartCommandAndItsBusStep : held.idle = true ∧ newlySetsOnly .whole 0x2 held.con 1 := by
  unfold newlySetsOnly
  decide

theorem witness_StopCommandAndItsBusStep : fresh.idle = true ∧ newlySetsOnly .inv 0x24 fresh.con 2 := by
  unfold newlySetsOnly
  decide

/-- Both values of RBF, and every OVF_RCV. -/
theorem witness_ReceiveCommandAndItsBusStep :
    reading.idle = true ∧ reading.stat.rbf = false ∧ newlySetsOnly .set 0x8 reading.con 3 ∧
    ({ reading with stat.rbf := true }).idle = true ∧ ({ cfg with ovfRcv := .keepOld }).ovfRcv = .keepOld ∧
    ({ cfg with ovfRcv := .takeNew }).ovfRcv = .takeNew ∧ cfg.ovfRcv = .any := by
  unfold newlySetsOnly
  decide

theorem witness_MasterAckCommandAndItsBusStep : fresh.idle = true ∧ newlySetsOnly .set 0x30 fresh.con 4 := by
  unfold newlySetsOnly
  decide

theorem witness_TrnWriteSendsTheByteOrIsRefused :
    sending.idle = false ∧ starting.idle = false ∧ held.idle = true ∧ held.xaddr = true ∧ reading.idle = true ∧
    reading.xaddr = false := by
  decide

theorem witness_ReadConvReturnsTheExactConversion :
    fresh.unit = .celsius ∧ ({ fresh with unit := .kelvin }).unit = .kelvin ∧
    ({ fresh with unit := .fahrenheit }).unit = .fahrenheit := by decide

theorem witness_UnitIsWrittenWhenLegalAndReadBack :
    (0xFFFFFFFE : Word).toNat % 4 ≠ 3 ∧ (0 : Word).toNat % 4 ≠ 3 ∧ (3 : Word).toNat % 4 = 3 := by decide

theorem witness_CelAndConvFollowTheWriteAtOnce : (2 : Word).toNat % 4 ≠ 3 := by decide

theorem witness_ReadEvtReturnsAndClearsTheEvent :
    DebounceInv 1 { fresh with evt.armed := true } ∧ ({ fresh with evt.armed := true }).evt.evtv = false :=
  ⟨⟨by decide, by decide, by decide, by decide⟩, by decide⟩

/-- One state for each of the six clauses, with SETTLE_TICKS = 1 and 2 at the boundary of REL. -/
theorem witness_TickSetsTheFlagAndSamples :
    (fresh.evt.armed = false ∧ fresh.pins = 0 ∧ fresh.rel.toNat < cfg.settleTicks ∧
      cfg.settleTicks ≤ fresh.rel.toNat + 1) ∧
    (({ fresh with rel := 254 }).rel.toNat < ({ cfg with settleLessOne := 254 }).settleTicks ∧
      ({ cfg with settleLessOne := 254 }).settleTicks ≤ ({ fresh with rel := 254 }).rel.toNat + 1) ∧
    fresh.rel.toNat + 1 < ({ cfg with settleLessOne := 1 }).settleTicks ∧
    ({ fresh with pins := 1 }).pins ≠ 0 ∧
    (({ fresh with evt.armed := true }).evt.armed = true ∧ ({ fresh with evt.armed := true }).pins = 0) ∧
    (({ fresh with evt.armed := true, pins := 4 }).pins ≠ 0 ∧ ({ fresh with evt.armed := true, pins := 4 }).evt.evtv = false) ∧
    ({ fresh with evt.armed := true, evt.evtv := true, evt.evec := 1, pins := 4 }).evt.evtv = true := by decide

/-- With host steps of WAIT_IDLE, its RD CON and RD STAT among them, between the ticks. -/
theorem witness_TicksBetweenTwoReadsCountOnce :
    alongRun cfg (keepsTickCount cfg) (.tick :: List.replicate 10 .host ++ [.pins 4, .tick]) waiting ∧
    ((ran (.tick :: List.replicate 10 .host ++ [.pins 4, .tick]) waiting).map fun t => t.tickf) = some true :=
  ⟨alongB_sound noTickReadB_sound _ _ (by decide), by decide⟩

/-- Two latched events, with an RD EVT and a release between them. -/
theorem witness_EventsAreSeparatedByRelease :
    let s := { fresh with evt.armed := true, pins := 4 }
    let xs := [AgentStep.tick, .packet 0x1B00000000, .pins 0, .tick, .pins 1]
    s.evt.armed = true ∧ s.pins ≠ 0 ∧ (nextOf (stepAs cfg .tick s)).isSome = true ∧
    (((nextOf (stepAs cfg .tick s)).bind (ran xs)).map fun u => (u.evt.armed, u.evt.evtv, u.pins)) =
      some (true, false, 1) := by decide

/-- An input held; and a run from reset that arms the debouncer. -/
theorem witness_InputHeldFromResetGivesNoEvent :
    (({ fresh with pins := 4 }).evt.armed = false ∧ ({ fresh with pins := 4 }).pins ≠ 0 ∧
      (nextOf (stepAs cfg .tick { fresh with pins := 4 })).isSome = true) ∧
    fresh.evt = Evt.reset ∧ fresh.rel = 0 ∧
    ((ran [.pins 4, .tick, .pins 0, .tick] fresh).map fun t => t.evt.armed) = some true := by decide

theorem invB_spec (s : State) (h : invB s = true) : EngineInv s := by
  simp only [invB, Bool.and_eq_true, Bool.or_eq_true, decide_eq_true_eq, beq_iff_eq, Bool.not_eq_true'] at h
  obtain ⟨⟨h1, h2⟩, h3⟩ := h
  exact ⟨h1, fun hc => h2.resolve_left hc, fun hb => by simpa [hb] using h3⟩

theorem witness_TwoBusStepsCompleteAnyOperation :
    EngineInv sending ∧
    (ran ([.tick] ++ .bus (draw true 0 0) :: [.packet 0x0400000000] ++ .bus (draw true 0 0) :: []) sending).isSome = true :=
  ⟨invB_spec _ (by decide), by decide⟩

/-- WAIT_IDLE's own RD CON and RD STAT are among the ten host steps; the last value read is STAT. -/
theorem witness_IdlenessIsDecidedByTwoReads :
    (nextOf (agentStep cfg (.bus (draw true 0 0)) starting)).isSome = true ∧ (∀ k, k < 5 → waiting.con.field k = false) ∧
    alongRun cfg (noHostWrite cfg) (List.replicate 10 .host) waiting ∧
    ((ran (List.replicate 10 .host) waiting).map fun t => (t.stat.trstat, t.readData)) = some (false, some 0x8) ∧
    ((ran (List.replicate 10 .host) waiting).bind (ran [.tick])).isSome = true :=
  ⟨by decide, by decide, alongB_sound noWriteB_sound _ _ (by decide), by decide, by decide⟩

/-- A state in each mode with a BUS step. -/
theorem witness_BusStepOfEachMode :
    starting.mode = .starting ∧ ({ fresh with con.rsen := true }).mode = .restarting ∧
    ({ held with con.pen := true }).mode = .stopping ∧ sending.mode = .txData ∧
    ({ sending with stat.tbf := false }).mode = .txAck ∧ ({ reading with con.rcen := true }).mode = .receiving ∧
    ({ reading with con.acken := true }).mode = .masterAck := by decide

theorem witness_ExactlyOneModeRowHolds : EngineInv sending ∧ EngineInv starting ∧ EngineInv fresh :=
  ⟨invB_spec _ (by decide), invB_spec _ (by decide), invB_spec _ (by decide)⟩

theorem witness_StepKeepsTheEngineInvariant :
    EngineInv starting ∧ (nextOf (step { starting with agenda := [.bus (draw false 0 0)] })).isSome = true :=
  ⟨invB_spec _ (by decide), by decide⟩

theorem witness_StepKeepsTheDebounceInvariant :
    DebounceInv Config.platform.settleTicks { fresh with evt := ⟨4, true, false, true⟩, agenda := [.packet 0x1B00000000] } ∧
    (nextOf (step { fresh with evt := ⟨4, true, false, true⟩, agenda := [.packet 0x1B00000000] })).isSome = true :=
  ⟨⟨by simp [fresh, State.reset, Config.settleTicks], by decide, by decide, by decide⟩, by decide⟩

theorem witness_StepKeepsStatusAndTraceInAgreement :
    TraceInv { held with agenda := [.packet 0x8200000004] } ∧
    (nextOf (step { held with agenda := [.packet 0x8200000004] })).isSome = true :=
  ⟨⟨by decide, by decide⟩, by decide⟩

/-- One agent step for each clause that changes what the clause names. -/
theorem witness_StateChangesNameTheirWriter :
    ((ran [.bus (draw false 0x19 0)] { reading with con.rcen := true }).map fun t => t.rcv) = some 0x19 ∧
    ((ran [.bus (draw true 0 0)] { sending with stat.tbf := false }).map fun t => t.stat.ackstat) = some true ∧
    ((ran [.tick] fresh).map fun t => t.evt.armed) = some true ∧ ((ran [.pins 1] fresh).map fun t => t.pins) = some 1 ∧
    ((ran [.bus (draw true 0 0)] starting).map fun t => t.trace) = some [.start] ∧
    ((ran [.packet 0x9000001980] fresh).map fun t => t.raw) = some 0x1980 ∧
    ((ran [.packet 0x9200000001] fresh).map fun t => t.unit) = some .kelvin ∧
    ((ran [.packet 0x8800000090] held).map fun t => t.trn) = some 0x90 ∧
    ((ran [.packet 0x9900000007] fresh).map fun t => t.tickcnt) = some 7 := by decide

theorem witness_FaultsAndMarksAreNeverCleared :
    (nextOf (step { fresh with
        faults := [.reserved 0x0100000000], marks := ⟨true, true, true, true, true⟩
        agenda := [.packet 0x8000000000] })).isSome = true := by
  decide

theorem witness_TraceGrowsByOneEventOfThePendingOperation :
    (nextOf (agentStep cfg (.bus (draw true 0 0)) starting)).isSome = true := by decide

theorem witness_StepKeepsTheFaultSetFreeOfRepeats :
    [FaultReason.reserved 0x0100000000].Nodup ∧
    (nextOf (step { fresh with faults := [.reserved 0x0100000000], agenda := [.packet 0x0100000000] })).isSome = true := by
  decide

theorem witness_MarkStateShowsNothing :
    ({ reading with xaddr := true, dir := false, mackp := true, trace := [.stop], faults := [.reserved 0] } : State).shown =
      reading.shown := by decide

theorem witness_HostConstructsLeaveTheBlockUnchanged :
    (fresh.loadProgram (sensorRead cfg)).host = .running ⟨[], [sensorRead cfg], none⟩ [] ∧
    (∀ t r, sensorRead cfg ≠ .read t r) ∧ ∀ r v, sensorRead cfg ≠ .write r v := by
  refine ⟨rfl, ?_, ?_⟩ <;> intros <;> simp [sensorRead, seqOf]

/-- The ends of a body: the program has returned, or a caller goes on. -/
theorem witness_HostConstructs_end_of_body :
    ({ fresh with host := .running ⟨[], [], none⟩ [] }).host = .running ⟨[], [], none⟩ [] ∧
    ({ fresh with host := .running ⟨[], [], some 1⟩ [⟨[], [.nop], none⟩] }).host =
      .running ⟨[], [], some 1⟩ [⟨[], [.nop], none⟩] := by decide

theorem witness_HostExpressionValues :
    evalExpr [] (.lit (-5)) = .int (-5) ∧ evalExpr [] (.lit 3) = .int ((3 : Nat) : Int) := by decide

/-- Values at both ends of 32 bits, and one outside. -/
theorem witness_HostStatementsPerformTheirInstruction :
    (fresh.loadProgram (.write .raw (.lit 5))).host = .running ⟨[], .write .raw (.lit 5) :: [], none⟩ [] ∧
    evalExpr [] (.lit 0) = .int (0 : Word).toNat ∧ evalExpr [] (.lit 0xFFFFFFFF) = .int (0xFFFFFFFF : Word).toNat ∧
    ((0xFFFFFFFF : Word).toNat : Int) = (evalExpr [] (.lit (-1))).toInt % 2 ^ 32 ∧
    (fresh.loadProgram (.read 0 .tick)).host = .running ⟨[], .read 0 .tick :: [], none⟩ [] := by decide

theorem witness_WaitIdleTestsIdleness :
    tempGet 1 [(1, .int sending.con.word.toNat), (2, .int sending.stat.word.toNat)] = .int sending.con.word.toNat ∧
    tempGet 2 [(1, .int sending.con.word.toNat), (2, .int sending.stat.word.toNat)] = .int sending.stat.word.toNat := by
  decide

/-- The run ends after the STARTING step with the bus held; and a step after the end adds nothing. -/
theorem witness_EndOfRunRecordsAHeldBus :
    ((nextOf (agentStep cfg (.bus (draw true 0 0)) { starting with host := .returned none })).map
        fun u => (u.idle, u.ended, u.stat.s)) =
      some (true, false, true) ∧
    ((nextOf (agentStep cfg (.pins 1) { held with host := .returned none, ended := true })).map fun u => u.ended) =
      some true := by decide

end Sys2Proof.Tests
end

/-! # Proofs: the state and its invariants (10_state.md) -/

namespace Sys2Proof.Machine

/-! ### What an instruction can do -/

/-- What each instruction does to the state: a read that only answers, the three reads that also clear something, and
one row for each kind of write, the writes of CON together and those of STAT together (R65). -/
inductive ExecEffect : Instr → State → State → Prop where
  | read (i : Instr) (v : Word) (s : State) (h : i.isWrite = false) : ExecEffect i s (s.respond v)
  | readRcv (v : Word) (s : State) : ExecEffect .rdRcv s { s.respond v with stat.rbf := false }
  | readTick (v n : Word) (s : State) : ExecEffect .rdTick s { s.respond v with tickcnt := n, tickf := false }
  | readEvt (v : Word) (s : State) :
      ExecEffect .rdEvt s { s.respond v with evt.evtv := false, evt.evov := false, evt.evec := 0 }
  | writeCon (f : AliasFn) (d : Word) (s : State) : ExecEffect (conWriteInstr f d) s (conWrite f d s)
  | writeStat (f : AliasFn) (d : Word) (s : State) : ExecEffect (statWriteInstr f d) s (statWrite f d s)
  | writeTrn (d : Word) (s : State) : ExecEffect (.wrTrn d) s (trnWrite d s)
  | writeRaw (d : Word) (s : State) : ExecEffect (.wrRaw d) s { s with raw := rawData d }
  | writeUnit (d : Word) (u : TempUnit) (s : State) : ExecEffect (.wrUnit d) s { s with unit := u }
  | writeTickcnt (d : Word) (s : State) : ExecEffect (.wrTickcnt d) s { s with tickcnt := d }

/-- Every instruction answers a next state, by its row of `ExecEffect`. -/
theorem exec_next_effect (i : Instr) (s : State) : ∃ t, exec i s = .next t ∧ ExecEffect i s t := by
  cases i with
  | rdCon => exact ⟨_, rfl, .read _ _ _ rfl⟩
  | rdStat => exact ⟨_, rfl, .read _ _ _ rfl⟩
  | rdTrn => exact ⟨_, rfl, .read _ _ _ rfl⟩
  | rdRcv => exact ⟨_, rfl, .readRcv ..⟩
  | rdRaw => exact ⟨_, rfl, .read _ _ _ rfl⟩
  | rdCel => exact ⟨_, rfl, .read _ _ _ rfl⟩
  | rdUnit => exact ⟨_, rfl, .read _ _ _ rfl⟩
  | rdConv => exact ⟨_, rfl, .read _ _ _ rfl⟩
  | rdTick => exact ⟨_, rfl, .readTick ..⟩
  | rdTickcnt => exact ⟨_, rfl, .read _ _ _ rfl⟩
  | rdIn => exact ⟨_, rfl, .read _ _ _ rfl⟩
  | rdEvt => exact ⟨_, rfl, .readEvt ..⟩
  | wrCon d => exact ⟨_, rfl, .writeCon .whole d s⟩
  | wrConclr d => exact ⟨_, rfl, .writeCon .clr d s⟩
  | wrConset d => exact ⟨_, rfl, .writeCon .set d s⟩
  | wrConinv d => exact ⟨_, rfl, .writeCon .inv d s⟩
  | wrStat d => exact ⟨_, rfl, .writeStat .whole d s⟩
  | wrStatclr d => exact ⟨_, rfl, .writeStat .clr d s⟩
  | wrStatset d => exact ⟨_, rfl, .writeStat .set d s⟩
  | wrStatinv d => exact ⟨_, rfl, .writeStat .inv d s⟩
  | wrTrn d => exact ⟨_, rfl, .writeTrn ..⟩
  | wrRaw d => exact ⟨_, rfl, .writeRaw ..⟩
  | wrUnit d => exact ⟨_, rfl, .writeUnit ..⟩
  | wrTickcnt d => exact ⟨_, rfl, .writeTickcnt ..⟩

theorem exec_effect {i : Instr} {s t : State} (h : exec i s = .next t) : ExecEffect i s t := by
  obtain ⟨u, hu, e⟩ := exec_next_effect i s
  obtain rfl : u = t := by simpa [hu] using h
  exact e

/-- Only RD EVT changes EVT, and it clears all of it but ARMED (R132). -/
theorem exec_evt {i : Instr} {s t : State} (h : exec i s = .next t) :
    t.evt = s.evt ∨ t.evt = { s.evt with evtv := false, evov := false, evec := 0 } := by
  cases exec_effect h with
  | readEvt => exact .inr rfl
  | writeCon f d =>
    obtain ⟨_, _, _, _, _, _, e⟩ := conWrite_frame f d s
    exact .inl (by rw [e])
  | writeTrn d => obtain ⟨-, e⟩ | ⟨-, _, _, e⟩ := trnWrite_cases d s <;> exact .inl (by simp [e])
  | read | readRcv | readTick | writeStat | writeRaw | writeUnit | writeTickcnt => exact .inl rfl

/-- RAW, UNIT and TRN change by their own write only, TICKCNT by its write and by RD TICK (R33, R35, R37, R40). -/
theorem exec_writers {i : Instr} {s t : State} (h : exec i s = .next t) :
    (t.raw ≠ s.raw → ∃ d, i = .wrRaw d) ∧ (t.unit ≠ s.unit → ∃ d, i = .wrUnit d) ∧
      (t.trn ≠ s.trn → ∃ d, i = .wrTrn d) ∧ (t.tickcnt ≠ s.tickcnt → i = .rdTick ∨ ∃ d, i = .wrTickcnt d) := by
  cases exec_effect h with
  | writeCon f d =>
    obtain ⟨_, _, _, _, _, _, e⟩ := conWrite_frame f d s
    simp [e]
  | writeTrn d => obtain ⟨-, e⟩ | ⟨-, _, _, e⟩ := trnWrite_cases d s <;> simp [e]
  | read | readRcv | readTick | readEvt | writeStat | writeRaw | writeUnit | writeTickcnt => simp [statWrite]

/-! ### What a BUS step leaves unchanged -/

/-- A BUS step changes nothing of the debouncer, the tick, the converter, TRN, the pins and the faults. -/
theorem busStep_keeps {c : Config} {d : BusDraw} {s t : State} (h : busStep c d s = .next t) :
    t.evt = s.evt ∧ t.rel = s.rel ∧ t.tickcnt = s.tickcnt ∧ t.raw = s.raw ∧ t.unit = s.unit ∧ t.trn = s.trn ∧
      t.pins = s.pins ∧ t.faults = s.faults := by
  obtain ⟨-, rfl⟩ | ⟨-, rfl⟩ | ⟨-, rfl⟩ | ⟨-, rfl⟩ | ⟨-, rfl⟩ | ⟨-, rfl⟩ | ⟨-, rfl⟩ := busStep_cases h <;>
    exact ⟨rfl, rfl, rfl, rfl, rfl, rfl, rfl, rfl⟩

/-- A BUS step changes RCV in mode RECEIVING only and ACKSTAT in mode TX_ACK only (R30, R34). -/
theorem busStep_writers {c : Config} {d : BusDraw} {s t : State} (h : busStep c d s = .next t) :
    (t.rcv ≠ s.rcv → s.mode = .receiving) ∧ (t.stat.ackstat ≠ s.stat.ackstat → s.mode = .txAck) := by
  obtain ⟨-, rfl⟩ | ⟨-, rfl⟩ | ⟨-, rfl⟩ | ⟨-, rfl⟩ | ⟨hm, rfl⟩ | ⟨hm, rfl⟩ | ⟨-, rfl⟩ := busStep_cases h
  case inr.inr.inr.inr.inl => simp [busTxAck, hm]
  case inr.inr.inr.inr.inr.inl => simp [busReceive, hm]
  all_goals simp [busStart, busRestart, busStop, busTxData, busMasterAck]

/-! ### A predicate that every agent step keeps -/

/-- A predicate that does not speak of the agenda or the end of a run, and that every agent step keeps, is kept by every
step. -/
theorem stepWith_keeps {c : Config} {P : State → Prop} (hagenda : ∀ s rest, P s → P { s with agenda := rest })
    (hclose : ∀ s, P s → P s.closeRun) (hagent : ∀ a s t, P s → agentStep c a s = .next t → P t) {s t : State}
    (hs : P s) (h : stepWith c s = .next t) : P t := by
  obtain ⟨a, rest, u, -, hu, rfl⟩ := stepWith_cases h
  exact hclose u (hagent a _ u (hagenda s rest hs) hu)

/-! ### The engine's bits and its modes -/

/-- The bits that decide the engine's mode: the command bits, TRSTAT and TBF (R32). -/
def State.engineBits (s : State) : BitVec 5 × Bool × Bool := (s.con.commands, s.stat.trstat, s.stat.tbf)

/-- The engine's bits in each mode under the invariant of R32. -/
def Mode.engineBits : Mode → BitVec 5 × Bool × Bool
  | .idle => (0x00, false, false)
  | .starting => (0x01, false, false)
  | .restarting => (0x02, false, false)
  | .stopping => (0x04, false, false)
  | .receiving => (0x08, false, false)
  | .masterAck => (0x10, false, false)
  | .txData => (0x00, true, true)
  | .txAck => (0x00, true, false)

/-- The eight modes. -/
def Mode.all : List Mode :=
  [.idle, .starting, .restarting, .stopping, .txData, .txAck, .receiving, .masterAck]

/-- The three conditions of R32 leave exactly the eight rows of `Mode.engineBits`. -/
theorem engineBits_legal_iff : ∀ (x : BitVec 5) (trstat tbf : Bool),
    (popcount x ≤ 1 ∧ (x ≠ 0 → trstat = false ∧ tbf = false) ∧ (tbf = true → trstat = true)) ↔
      ∃ m ∈ Mode.all, (x, trstat, tbf) = m.engineBits := by
  decide

/-- The invariant of R32 says that the engine's bits are those of a mode. -/
theorem engineInv_iff (s : State) : EngineInv s ↔ ∃ m : Mode, s.engineBits = m.engineBits := by
  have legal := engineBits_legal_iff s.con.commands s.stat.trstat s.stat.tbf
  constructor
  · rintro ⟨one, quiet, flight⟩
    obtain ⟨m, -, hm⟩ := legal.mp ⟨one, quiet, flight⟩
    exact ⟨m, hm⟩
  · rintro ⟨m, hm⟩
    obtain ⟨one, quiet, flight⟩ := legal.mpr ⟨m, by cases m <;> decide, hm⟩
    exact ⟨one, quiet, flight⟩

/-- The command bits, field by field. -/
theorem Con.commands_eq_iff (c : Con) (x : BitVec 5) :
    c.commands = x ↔
      c.sen = x[0] ∧ c.rsen = x[1] ∧ c.pen = x[2] ∧ c.rcen = x[3] ∧ c.acken = x[4] := by
  obtain ⟨a, b, d, e, f, g⟩ := c
  revert x a b d e f g
  decide

/-- The engine's bits of a mode, field by field. -/
theorem State.engineBits_eq_iff (s : State) (x : BitVec 5) (trstat tbf : Bool) :
    s.engineBits = (x, trstat, tbf) ↔
      (s.con.sen = x[0] ∧ s.con.rsen = x[1] ∧ s.con.pen = x[2] ∧ s.con.rcen = x[3] ∧ s.con.acken = x[4]) ∧
        s.stat.trstat = trstat ∧ s.stat.tbf = tbf := by
  simp only [State.engineBits, Prod.mk.injEq, Con.commands_eq_iff]

/-- With the engine's bits of a mode, exactly that mode's row of R32 holds. -/
theorem Mode.row_iff_of_engineBits {s : State} {m : Mode} (h : s.engineBits = m.engineBits) (r : Mode) :
    r.row s = true ↔ r = m := by
  cases m
  all_goals
    simp only [Mode.engineBits, State.engineBits_eq_iff] at h
    cases r <;> simp [Mode.row, State.idle_iff, h]

/-- The mode of a state with the engine's bits of a mode is that mode. -/
theorem State.mode_of_engineBits {s : State} {m : Mode} (h : s.engineBits = m.engineBits) : s.mode = m := by
  have idle : s.idle = true ↔ .idle = m := Mode.row_iff_of_engineBits h .idle
  cases m
  all_goals
    simp only [Mode.engineBits, State.engineBits_eq_iff] at h
    simp [State.mode, idle, h]

theorem EngineInv.engineBits_mode {s : State} (inv : EngineInv s) : s.engineBits = s.mode.engineBits := by
  obtain ⟨m, hm⟩ := (engineInv_iff s).mp inv
  rw [State.mode_of_engineBits hm, hm]

/-! ### What a step does to the engine's mode -/

/-- The mode a command starts (R87, R92 to R96). -/
def Command.mode : Command → Mode
  | .start => .starting
  | .restart => .restarting
  | .stop => .stopping
  | .recv => .receiving
  | .ack => .masterAck

/-- The mode after the BUS step of a mode (R107 to R113): a byte that has been sent waits for its acknowledge. -/
def Mode.afterBus : Mode → Mode
  | .txData => .txAck
  | .idle | .starting | .restarting | .stopping | .txAck | .receiving | .masterAck => .idle

/-- With the engine invariant, idle is the engine's bits all 0. -/
theorem EngineInv.engineBits_idle {s : State} (inv : EngineInv s) (h : s.idle = true) :
    s.engineBits = Mode.idle.engineBits := by
  rw [inv.engineBits_mode, (State.mode_idle_iff s).mpr h]

@[simp] theorem Con.commands_ackdt (c : Con) (b : Bool) : ({ c with ackdt := b } : Con).commands = c.commands := by
  simp [Con.commands_eq_iff, (Con.commands_eq_iff c c.commands).mp rfl]

/-- The ACKDT update of a CON write leaves the engine's bits (R87). -/
@[simp] theorem State.engineBits_ackdt (s : State) (b : Bool) :
    State.engineBits { s with con.ackdt := b } = s.engineBits := by
  simp [State.engineBits]

@[simp] theorem State.refuseWrite_engineBits (s : State) : s.refuseWrite.engineBits = s.engineBits := rfl

/-- A command started with the engine's bits all 0 brings its mode. -/
theorem startCommand_engineBits (k : Command) {s : State} (h : s.engineBits = Mode.idle.engineBits) :
    (startCommand k s).engineBits = k.mode.engineBits := by
  simp only [Mode.engineBits, State.engineBits_eq_iff] at h
  cases k <;>
    simp [startCommand, startCmd, restartCmd, stopCmd, recvCmd, ackCmd, Command.mode, Mode.engineBits,
      State.engineBits_eq_iff, h]

/-- An instruction leaves the engine's bits or starts an operation from idle. -/
theorem exec_engineBits {i : Instr} {s t : State} (inv : EngineInv s) (h : exec i s = .next t) :
    t.engineBits = s.engineBits ∨ (s.idle = true ∧ ∃ m : Mode, t.engineBits = m.engineBits) := by
  cases exec_effect h with
  | writeCon f d =>
    obtain e | e | ⟨hi, k, -, e⟩ := conWrite_cases f d s
    · exact .inl (by simp [e])
    · exact .inl (by simp [e])
    · refine .inr ⟨hi, k.mode, ?_⟩
      rw [e]
      exact startCommand_engineBits k (by simpa using inv.engineBits_idle hi)
  | writeTrn d =>
    obtain ⟨-, e⟩ | ⟨hi, _, _, e⟩ := trnWrite_cases d s
    · exact .inl (by simp [e])
    · have hc : s.con.commands = 0 := congrArg Prod.fst (inv.engineBits_idle hi)
      exact .inr ⟨hi, .txData, by rw [e]; simp [State.engineBits, Mode.engineBits, hc]⟩
  | read | readRcv | readTick | readEvt | writeStat | writeRaw | writeUnit | writeTickcnt => exact .inl rfl

/-- The BUS step of a mode brings the mode after it (R107 to R113). -/
theorem busStep_engineBits {c : Config} {d : BusDraw} {s t : State} (inv : EngineInv s)
    (h : busStep c d s = .next t) : t.engineBits = s.mode.afterBus.engineBits := by
  have hs := inv.engineBits_mode
  obtain ⟨hm, rfl⟩ | ⟨hm, rfl⟩ | ⟨hm, rfl⟩ | ⟨hm, rfl⟩ | ⟨hm, rfl⟩ | ⟨hm, rfl⟩ | ⟨hm, rfl⟩ := busStep_cases h
  all_goals
    rw [hm] at hs ⊢
    simp only [Mode.engineBits, State.engineBits_eq_iff] at hs
    simp [Mode.afterBus, Mode.engineBits, State.engineBits_eq_iff, hs, busStart, busRestart, busStop, busTxData,
      busTxAck, busReceive, busMasterAck]

/-- Under the engine invariant an agent step leaves the engine's bits, or starts an operation from idle, or is the BUS
step of the mode, or is a reset. -/
theorem agentStep_engineBits {c : Config} {a : AgentStep} {s t : State} (inv : EngineInv s)
    (h : agentStep c a s = .next t) :
    t.engineBits = s.engineBits ∨ (s.idle = true ∧ ∃ m : Mode, t.engineBits = m.engineBits) ∨
      ((∃ d, a = .bus d) ∧ t.engineBits = s.mode.afterBus.engineBits) ∨ t.engineBits = Mode.idle.engineBits := by
  obtain ⟨i, h', _, u, -, hu, rfl⟩ | ⟨f, rfl⟩ | ⟨_, rfl⟩ | ⟨d, rfl, hb⟩ | ⟨-, rfl⟩ | ⟨v, -, rfl⟩ | ⟨-, rfl⟩ :=
    agentStep_cases h
  · have inv' : EngineInv { s with host := h' } := (engineInv_iff _).mpr ((engineInv_iff s).mp inv)
    obtain e | ⟨hi, m, e⟩ := exec_engineBits inv' hu
    · exact .inl e
    · exact .inr (.inl ⟨hi, m, e⟩)
  · exact .inl rfl
  · exact .inl rfl
  · exact .inr (.inr (.inl ⟨⟨d, rfl⟩, busStep_engineBits inv hb⟩))
  · exact .inl (by rw [tickStep_frame]; rfl)
  · exact .inl rfl
  · have : State.reset.engineBits = Mode.idle.engineBits := by decide
    exact .inr (.inr (.inr this))

theorem agentStep_keeps_engineInv {c : Config} {a : AgentStep} {s t : State} (inv : EngineInv s)
    (h : agentStep c a s = .next t) : EngineInv t := by
  rw [engineInv_iff]
  obtain e | ⟨-, m, e⟩ | ⟨-, e⟩ | e := agentStep_engineBits inv h
  · exact ⟨s.mode, e.trans inv.engineBits_mode⟩
  · exact ⟨m, e⟩
  · exact ⟨s.mode.afterBus, e⟩
  · exact ⟨.idle, e⟩

theorem State.closeRun_engineBits (s : State) : s.closeRun.engineBits = s.engineBits := by simp [State.engineBits]

@[simp] theorem State.closeRun_mode (s : State) : s.closeRun.mode = s.mode := by
  simp [State.mode, State.idle]

theorem closeRun_keeps_engineInv {s : State} (inv : EngineInv s) : EngineInv s.closeRun := by
  rw [engineInv_iff, State.closeRun_engineBits]
  exact (engineInv_iff s).mp inv

/-- Settles O42: the invariant says that the engine's bits are those of a mode, and every agent step takes them to those
of a mode. -/
theorem stepKeepsTheEngineInvariant : Obligations.StepKeepsTheEngineInvariant := fun _ _ inv h =>
  stepWith_keeps (P := EngineInv) (fun s _ inv => (engineInv_iff _).mpr ((engineInv_iff s).mp inv))
    (fun _ => closeRun_keeps_engineInv) (fun _ _ _ => agentStep_keeps_engineInv) inv h

/-- Settles O41: the engine's bits are those of the mode, and with those no other mode's row holds. -/
theorem exactlyOneModeRowHolds : Obligations.ExactlyOneModeRowHolds := fun _ inv m =>
  Mode.row_iff_of_engineBits inv.engineBits_mode m

/-! ### Two BUS steps complete any operation -/

/-- Whether an agent step is the BUS agent's. -/
def AgentStep.isBus : AgentStep → Bool
  | .bus _ => true
  | .packet _ | .access _ | .host | .tick | .pins _ | .reset => false

/-- The BUS steps that a pending operation still needs (R107 to R113). -/
def Mode.busStepsLeft : Mode → Nat
  | .idle => 0
  | .txData => 2
  | .starting | .restarting | .stopping | .txAck | .receiving | .masterAck => 1

/-- The BUS step of a busy mode takes one off the steps left. -/
theorem Mode.busStepsLeft_afterBus {m : Mode} (h : m ≠ .idle) : m.afterBus.busStepsLeft + 1 = m.busStepsLeft := by
  cases m <;> simp_all [Mode.afterBus, Mode.busStepsLeft]

theorem Mode.busStepsLeft_le_two (m : Mode) : m.busStepsLeft ≤ 2 := by
  cases m <;> decide

/-- While the engine is busy, no agent step adds to the BUS steps left and each BUS step takes one off. -/
theorem agentStep_busStepsLeft {c : Config} {a : AgentStep} {s t : State} (inv : EngineInv s)
    (busy : s.mode ≠ .idle) (h : agentStep c a s = .next t) :
    t.mode.busStepsLeft + a.isBus.toNat ≤ s.mode.busStepsLeft := by
  have left := Mode.busStepsLeft_afterBus busy
  by_cases bus : a.isBus = true
  · obtain ⟨d, rfl⟩ : ∃ d, a = .bus d := by cases a <;> simp_all [AgentStep.isBus]
    rw [State.mode_of_engineBits (busStep_engineBits inv h), ← left]
    rfl
  · obtain e | ⟨hi, -⟩ | ⟨⟨d, rfl⟩, -⟩ | e := agentStep_engineBits inv h
    · rw [State.mode_of_engineBits (e.trans inv.engineBits_mode)]
      simp [bus]
    · exact absurd ((State.mode_idle_iff s).mpr hi) busy
    · simp [AgentStep.isBus] at bus
    · simp [State.mode_of_engineBits e, Mode.busStepsLeft, bus]

/-- Some state of a run from `s`, the first and the last included, is idle. -/
def passesIdle (c : Config) (xs : List AgentStep) (s : State) : Prop :=
  ∃ pre post u, xs = pre ++ post ∧ runAgents c pre s = .next u ∧ u.idle = true

theorem passesIdle_of_idle {c : Config} {xs : List AgentStep} {s : State} (h : s.idle = true) : passesIdle c xs s :=
  ⟨[], xs, s, rfl, rfl, h⟩

theorem passesIdle_cons {c : Config} {a : AgentStep} {xs : List AgentStep} {s t : State} (h : stepAs c a s = .next t)
    (ht : passesIdle c xs t) : passesIdle c (a :: xs) s := by
  obtain ⟨pre, post, u, rfl, hu, hi⟩ := ht
  exact ⟨a :: pre, post, u, rfl, runAgents_cons.mpr ⟨t, h, hu⟩, hi⟩

/-- A run with as many BUS steps as the pending operation still needs passes an idle state. -/
theorem passesIdle_of_busStepsLeft {c : Config} {xs : List AgentStep} {s t : State} (inv : EngineInv s)
    (h : runAgents c xs s = .next t) (enough : s.mode.busStepsLeft ≤ xs.countP AgentStep.isBus) :
    passesIdle c xs s := by
  induction xs generalizing s with
  | nil =>
    refine passesIdle_of_idle ((State.mode_idle_iff s).mp ?_)
    cases hm : s.mode <;> simp_all [Mode.busStepsLeft]
  | cons a xs ih =>
    by_cases hi : s.idle = true
    · exact passesIdle_of_idle hi
    obtain ⟨t', ht', hrun⟩ := runAgents_cons.mp h
    obtain ⟨u, hu, rfl⟩ := stepAs_cases ht'
    have left := agentStep_busStepsLeft inv (mt (State.mode_idle_iff s).mp hi) hu
    have inv' := closeRun_keeps_engineInv (agentStep_keeps_engineInv inv hu)
    refine passesIdle_cons ht' (ih inv' hrun ?_)
    rw [List.countP_cons] at enough
    rw [State.closeRun_mode]
    cases hb : a.isBus <;> simp [hb] at left enough <;> omega

/-- Settles O39: no operation needs more than two BUS steps. -/
theorem twoBusStepsCompleteAnyOperation : Obligations.TwoBusStepsCompleteAnyOperation := by
  intro c xs ys zs b1 b2 s t inv h
  have assoc : xs ++ .bus b1 :: ys ++ .bus b2 :: zs = (xs ++ .bus b1 :: ys ++ [.bus b2]) ++ zs := by simp
  rw [assoc] at h
  obtain ⟨u, hu, -⟩ := runAgents_append.mp h
  refine passesIdle_of_busStepsLeft inv hu ((Mode.busStepsLeft_le_two _).trans ?_)
  simp [List.countP_append, List.countP_cons, AgentStep.isBus]
  omega

/-! ### The debouncer -/

/-- The debouncer's invariant speaks of EVT and REL alone. -/
theorem DebounceInv.congr {settle : Nat} {s t : State} (inv : DebounceInv settle s) (he : t.evt = s.evt)
    (hr : t.rel = s.rel) : DebounceInv settle t := by
  obtain ⟨below, armed, none, input⟩ := inv
  exact ⟨by rwa [hr], by rwa [he, hr], by rwa [he], by rwa [he]⟩

theorem reset_debounceInv (c : Config) : DebounceInv c.settleTicks State.reset :=
  ⟨Nat.succ_pos _, by simp [State.reset], by simp [State.reset, Evt.reset], by simp [State.reset, Evt.reset]⟩

/-- A sample keeps the debouncer's invariant (R134). -/
theorem debounceSample_keeps_debounceInv {settle : Nat} (v : Byte) {s : State} (inv : DebounceInv settle s) :
    DebounceInv settle (debounceSample settle v s) := by
  obtain ⟨below, armed, none, input⟩ := inv
  have pos : 0 < settle := by omega
  simp only [debounceSample, sampleArmed, sampleUnarmed]
  split_ifs with ha hv hw hv hn
  · exact ⟨below, armed, none, input⟩
  · exact ⟨pos, fun _ => rfl, by simp [hw], by simpa [hw] using input⟩
  · exact ⟨pos, fun _ => rfl, by simp, by simpa using hv⟩
  · exact ⟨pos, fun _ => rfl, none, input⟩
  · refine ⟨?_, by simp [ha], none, input⟩
    rw [BitVec.toNat_ofNat]
    exact (Nat.mod_le ..).trans_lt (by omega)
  · exact ⟨pos, fun _ => rfl, none, input⟩

theorem agentStep_keeps_debounceInv {c : Config} {a : AgentStep} {s t : State} (inv : DebounceInv c.settleTicks s)
    (h : agentStep c a s = .next t) : DebounceInv c.settleTicks t := by
  obtain ⟨i, h', _, u, -, hu, rfl⟩ | ⟨f, rfl⟩ | ⟨_, rfl⟩ | ⟨d, -, hb⟩ | ⟨-, rfl⟩ | ⟨v, -, rfl⟩ | ⟨-, rfl⟩ :=
    agentStep_cases h
  · obtain ⟨-, hrel, -⟩ := exec_keeps hu
    obtain e | e := exec_evt hu
    · exact inv.congr e hrel
    · obtain ⟨below, armed, -, -⟩ := inv
      refine ⟨by simpa [hrel] using below, by simpa [hrel, e] using armed, by simp [e], by simp [e]⟩
  · exact inv.congr rfl rfl
  · exact inv.congr rfl rfl
  · obtain ⟨he, hr, -⟩ := busStep_keeps hb
    exact inv.congr he hr
  · exact debounceSample_keeps_debounceInv _ (inv.congr rfl rfl)
  · exact inv.congr rfl rfl
  · exact (reset_debounceInv c).congr rfl rfl

/-- Settles O43: only a tick's sample and RD EVT touch the debouncer, and each keeps its invariant. -/
theorem stepKeepsTheDebounceInvariant : Obligations.StepKeepsTheDebounceInvariant := fun _ _ inv h =>
  stepWith_keeps (P := DebounceInv Config.platform.settleTicks) (fun _ _ inv => inv.congr rfl rfl)
    (fun s inv => inv.congr s.closeRun_evt s.closeRun_rel) (fun _ _ _ => agentStep_keeps_debounceInv) inv h

/-! ### Status and trace -/

/-- The trace invariant speaks of S, P, ACKSTAT and the trace alone. -/
theorem TraceInv.congr {s t : State} (inv : TraceInv s) (hs : t.stat.s = s.stat.s) (hp : t.stat.p = s.stat.p)
    (ha : t.stat.ackstat = s.stat.ackstat) (ht : t.trace = s.trace) : TraceInv t := by
  obtain ⟨framing, ack⟩ := inv
  exact ⟨by rwa [hs, hp, ht], by rwa [ha, ht]⟩

/-- A state whose trace has one more event agrees with it when its status is that after the event. -/
theorem TraceInv.append {s t : State} (inv : TraceInv s) (e : BusEvent) (ht : t.trace = s.trace ++ [e])
    (hf : (t.stat.s, t.stat.p) = framingAfter (s.stat.s, s.stat.p) e)
    (ha : t.stat.ackstat = ackAfter s.stat.ackstat e) : TraceInv t := by
  obtain ⟨framing, ack⟩ := inv
  constructor
  · rw [ht, hf, framing, List.foldl_concat]
  · rw [ht, ha, ack, List.foldl_concat]

/-- A BUS step changes S, P and ACKSTAT as the event it adds says (R107 to R113). -/
theorem busStep_keeps_traceInv {c : Config} {d : BusDraw} {s t : State} (inv : TraceInv s)
    (h : busStep c d s = .next t) : TraceInv t := by
  obtain ⟨-, rfl⟩ | ⟨-, rfl⟩ | ⟨-, rfl⟩ | ⟨-, rfl⟩ | ⟨-, rfl⟩ | ⟨-, rfl⟩ | ⟨-, rfl⟩ := busStep_cases h
  · exact inv.append .start rfl rfl rfl
  · exact inv.append .restart rfl rfl rfl
  · exact inv.append .stop rfl rfl rfl
  · exact inv.congr rfl rfl rfl rfl
  · exact inv.append (.tx s.trn d.ack) rfl rfl rfl
  · exact inv.append (.rx d.byte) rfl rfl rfl
  · exact inv.append (.mack s.ackl) rfl rfl rfl

theorem reset_traceInv : TraceInv State.reset := ⟨rfl, rfl⟩

theorem agentStep_keeps_traceInv {c : Config} {a : AgentStep} {s t : State} (inv : TraceInv s)
    (h : agentStep c a s = .next t) : TraceInv t := by
  obtain ⟨i, h', _, u, -, hu, rfl⟩ | ⟨f, rfl⟩ | ⟨_, rfl⟩ | ⟨d, -, hb⟩ | ⟨-, rfl⟩ | ⟨v, -, rfl⟩ | ⟨-, rfl⟩ :=
    agentStep_cases h
  · obtain ⟨-, -, -, hack, hs, hp, -, htrace, -⟩ := exec_keeps hu
    exact inv.congr hs hp hack htrace
  · exact inv.congr rfl rfl rfl rfl
  · exact inv.congr rfl rfl rfl rfl
  · exact busStep_keeps_traceInv inv hb
  · rw [tickStep_frame]
    exact inv.congr rfl rfl rfl rfl
  · exact inv.congr rfl rfl rfl rfl
  · exact reset_traceInv.congr rfl rfl rfl rfl

/-- Settles O44: only a BUS step touches S, P, ACKSTAT or the trace, and it changes them together. -/
theorem stepKeepsStatusAndTraceInAgreement : Obligations.StepKeepsStatusAndTraceInAgreement := fun _ _ inv h =>
  stepWith_keeps (P := TraceInv) (fun _ _ inv => inv.congr rfl rfl rfl rfl)
    (fun s inv => inv.congr (by simp) (by simp) (by simp) s.closeRun_trace)
    (fun _ _ _ => agentStep_keeps_traceInv) inv h

/-! ### The fault set -/

/-- Recording a fault that is in the list already leaves it, so the list gets no repeat (R44). -/
theorem recordFault_keeps_nodup (f : FaultReason) {s : State} (nodup : s.faults.Nodup) :
    (s.recordFault f).faults.Nodup := by
  rw [State.recordFault_faults]
  split
  · exact nodup
  · next new => simpa using nodup.concat new

theorem agentStep_keeps_nodup {c : Config} {a : AgentStep} {s t : State} (nodup : s.faults.Nodup)
    (h : agentStep c a s = .next t) : t.faults.Nodup := by
  obtain ⟨i, h', _, u, -, hu, rfl⟩ | ⟨f, rfl⟩ | ⟨_, rfl⟩ | ⟨d, -, hb⟩ | ⟨-, rfl⟩ | ⟨v, -, rfl⟩ | ⟨-, rfl⟩ :=
    agentStep_cases h
  · obtain ⟨-, -, -, -, -, -, -, -, hfaults, -⟩ := exec_keeps hu
    exact hfaults ▸ nodup
  · exact recordFault_keeps_nodup f nodup
  · exact nodup
  · obtain ⟨-, -, -, -, -, -, -, hfaults⟩ := busStep_keeps hb
    exact hfaults ▸ nodup
  · rwa [tickStep_frame]
  · exact nodup
  · exact List.nodup_nil

/-- Settles O51: a fault joins the list only when it is not in it. -/
theorem stepKeepsTheFaultSetFreeOfRepeats : Obligations.StepKeepsTheFaultSetFreeOfRepeats := fun _ _ nodup h =>
  stepWith_keeps (P := fun s => s.faults.Nodup) (fun _ _ nodup => nodup) (fun _ nodup => by simpa using nodup)
    (fun _ _ _ => agentStep_keeps_nodup) nodup h

/-! ### Who changes what -/

/-- Settles O48: each of these pieces of state has its own writer among the agents' steps. -/
theorem stateChangesNameTheirWriter : Obligations.StateChangesNameTheirWriter := by
  intro c a s t hreset h
  obtain ⟨i, h', _, u, hi, hu, rfl⟩ | ⟨f, rfl⟩ | ⟨_, rfl⟩ | ⟨d, rfl, hb⟩ | ⟨rfl, rfl⟩ | ⟨v, rfl, rfl⟩ | ⟨e, -⟩ :=
    agentStep_cases h
  · obtain ⟨hrcv, hrel, harmed, hack, -, -, hpins, htrace, -⟩ := exec_keeps hu
    simpa [hi, hrcv, hrel, harmed, hack, hpins, htrace] using exec_writers hu
  · simp
  · simp
  · obtain ⟨hevt, hrel, htickcnt, hraw, hunit, htrn, hpins, -⟩ := busStep_keeps hb
    simpa [hevt, hrel, htickcnt, hraw, hunit, htrn, hpins] using busStep_writers hb
  · simp [tickStep_frame]
  · simp [pinsStep]
  · exact absurd e hreset

/-! ### The reset state -/

/-- Settles O45: in the reset state the engine is idle, the debouncer has no event and the trace is empty. -/
theorem resetMeetsTheInvariants : Obligations.ResetMeetsTheInvariants :=
  ⟨(engineInv_iff _).mpr ⟨.idle, by decide⟩, reset_debounceInv, reset_traceInv⟩

/-- Settles O46: each piece of `State.reset` is evaluated. -/
theorem resetStateIsAsStated : Obligations.ResetStateIsAsStated := by
  unfold Obligations.ResetStateIsAsStated
  decide

/-! ### Mark state and record show nothing

Each operation is compared on `s` and on `s.shown`: when it answers states that show the same there, it answers such
states on any two states that show the same. -/

@[simp] theorem State.shown_con (s : State) : s.shown.con = s.con := rfl
@[simp] theorem State.shown_stat (s : State) : s.shown.stat = s.stat := rfl
@[simp] theorem State.shown_evt (s : State) : s.shown.evt = s.evt := rfl
@[simp] theorem State.shown_rel (s : State) : s.shown.rel = s.rel := rfl
@[simp] theorem State.shown_pins (s : State) : s.shown.pins = s.pins := rfl
@[simp] theorem State.shown_readData (s : State) : s.shown.readData = s.readData := rfl
@[simp] theorem State.shown_host (s : State) : s.shown.host = s.host := rfl
@[simp] theorem State.shown_ended (s : State) : s.shown.ended = s.ended := rfl
@[simp] theorem State.shown_agenda (s : State) : s.shown.agenda = s.agenda := rfl
@[simp] theorem State.shown_idle (s : State) : s.shown.idle = s.idle := rfl
@[simp] theorem State.shown_mode (s : State) : s.shown.mode = s.mode := rfl

/-- An update whose result shows nothing of the mark state and the record. -/
def BlindUpdate (g : State → State) : Prop := ∀ s, (g s).shown = (g s.shown).shown

/-- A step whose outcome shows nothing of the mark state and the record. -/
def BlindStep (f : State → Result) : Prop := ∀ s, onNext State.shown (f s) = onNext State.shown (f s.shown)

theorem BlindUpdate.shown_eq {g : State → State} (hg : BlindUpdate g) {s s' : State} (h : s.shown = s'.shown) :
    (g s).shown = (g s').shown := by
  rw [hg s, hg s', h]

theorem BlindStep.shown_eq {f : State → Result} (hf : BlindStep f) {s s' : State} (h : s.shown = s'.shown) :
    onNext State.shown (f s) = onNext State.shown (f s') := by
  rw [hf s, hf s', h]

/-- A blind update after a step that shows the same. -/
theorem BlindUpdate.onNext_eq {g : State → State} (hg : BlindUpdate g) {r r' : Result}
    (h : onNext State.shown r = onNext State.shown r') :
    onNext State.shown (onNext g r) = onNext State.shown (onNext g r') := by
  cases r <;> cases r' <;> simp at h ⊢
  case next.next u u' => exact hg.shown_eq h
  all_goals exact h

theorem BlindStep.andThen {f : State → Result} {g : State → State} (hf : BlindStep f) (hg : BlindUpdate g) :
    BlindStep (fun s => onNext g (f s)) :=
  fun s => hg.onNext_eq (hf s)

/-- Two choices by equivalent conditions show the same when their branches do. -/
theorem shown_ite {p q : Prop} [Decidable p] [Decidable q] (h : p ↔ q) {a b a' b' : State}
    (ha : a.shown = a'.shown) (hb : b.shown = b'.shown) :
    (if p then a else b).shown = (if q then a' else b').shown := by
  by_cases hp : p
  · rwa [if_pos hp, if_pos (h.mp hp)]
  · rwa [if_neg hp, if_neg (mt h.mpr hp)]

theorem startCommand_blind (k : Command) : BlindUpdate (startCommand k) := by
  intro s
  cases k <;> rfl

theorem conWrite_blind (f : AliasFn) (d : Word) : BlindUpdate (conWrite f d) := by
  intro s
  refine shown_ite .rfl rfl (shown_ite .rfl rfl (shown_ite .rfl rfl ?_))
  simp only [State.shown_con]
  split
  · next k _ => exact (startCommand_blind k).shown_eq rfl
  · rfl

theorem trnWrite_blind (d : Word) : BlindUpdate (trnWrite d) := by
  intro s
  exact shown_ite .rfl rfl rfl

theorem exec_blind (i : Instr) : BlindStep (exec i) := by
  intro s
  cases i
  case wrCon d => exact congrArg Host.Outcome.next (conWrite_blind .whole d s)
  case wrConclr d => exact congrArg Host.Outcome.next (conWrite_blind .clr d s)
  case wrConset d => exact congrArg Host.Outcome.next (conWrite_blind .set d s)
  case wrConinv d => exact congrArg Host.Outcome.next (conWrite_blind .inv d s)
  case wrTrn d => exact congrArg Host.Outcome.next (trnWrite_blind d s)
  all_goals rfl

theorem runPacket_blind (p : Packet) : BlindStep (runPacket p) := by
  intro s
  simp only [runPacket]
  split
  · next i _ => exact exec_blind i s
  · rfl

theorem runAccess_blind (c : Config) (x : HostAccess) : BlindStep (runAccess c x) := by
  intro s
  simp only [runAccess]
  split_ifs
  · rfl
  · rfl
  · exact runPacket_blind _ s

theorem takeRead_blind (x : Tmp) : BlindUpdate fun s => s.takeRead x := by
  intro s
  simp only [State.takeRead, State.shown_host, State.shown_readData]
  split <;> rfl

theorem hostStep_blind (c : Config) : BlindStep (hostStep c) := by
  intro s
  simp only [hostStep, State.shown_host]
  split
  · rfl
  · rfl
  · split
    · rfl
    · split
      · exact ((exec_blind _).andThen (takeRead_blind _)).shown_eq rfl
      · exact (exec_blind _).shown_eq rfl
      all_goals rfl

theorem busStep_blind (c : Config) (d : BusDraw) : BlindStep (busStep c d) := by
  intro s
  simp only [busStep, State.shown_mode]
  cases s.mode <;> rfl

theorem tickStep_blind (c : Config) : BlindUpdate (tickStep c) := by
  intro s
  exact shown_ite .rfl (shown_ite .rfl rfl (shown_ite .rfl rfl rfl)) (shown_ite .rfl (shown_ite .rfl rfl rfl) rfl)

theorem closeRun_blind : BlindUpdate State.closeRun := by
  intro s
  exact shown_ite .rfl rfl rfl

theorem agentStep_blind (c : Config) (a : AgentStep) : BlindStep (agentStep c a) := by
  intro s
  cases a with
  | packet p => exact runPacket_blind p s
  | access x => exact runAccess_blind c x s
  | host => exact hostStep_blind c s
  | bus d => exact busStep_blind c d s
  | tick => exact congrArg Host.Outcome.next (tickStep_blind c s)
  | pins v => rfl
  | reset => rfl

theorem stepWith_blind (c : Config) : BlindStep (stepWith c) := by
  intro s
  simp only [stepWith, State.shown_agenda]
  split
  · rfl
  · next a rest _ => exact ((agentStep_blind c a).andThen closeRun_blind).shown_eq rfl

/-- Settles O52: every agent step, and the closing of the run, is blind to the mark state and the record. -/
theorem markStateShowsNothing : Obligations.MarkStateShowsNothing := fun c _ _ h => (stepWith_blind c).shown_eq h

end Sys2Proof.Machine

/-! # Proofs: host accesses and the trace (20_memory.md) -/

namespace Sys2Proof.Machine

/-! ### Recording a fault -/

/-- The set of faults after one is recorded, by membership (R143). -/
theorem mem_recordFault_faults (f x : FaultReason) (s : State) :
    x ∈ (s.recordFault f).faults ↔ x = f ∨ x ∈ s.faults := by
  rw [State.recordFault_faults]
  split
  · next old =>
    have : x = f → x ∈ s.faults := fun e => e ▸ old
    tauto
  · simp [or_comm]

/-- Recording a fault changes the set of faults alone, and by that fault alone. -/
theorem recordFault_only (f : FaultReason) (s : State) :
    ∃ fs, s.recordFault f = { s with faults := fs } ∧ ∀ x, x ∈ fs ↔ x = f ∨ x ∈ s.faults :=
  ⟨(s.recordFault f).faults, rfl, fun x => mem_recordFault_faults f x s⟩

/-! ### Packets -/

/-- A packet that decodes runs as its instruction (R49). -/
theorem runPacket_ok {p : Packet} {i : Instr} (h : decode p = .ok i) (s : State) : runPacket p s = exec i s := by
  simp [runPacket, h]

/-- A packet that is no instruction is recorded (R51). -/
theorem runPacket_reserved {p : Packet} (h : ∀ i, decode p ≠ .ok i) (s : State) :
    runPacket p s = .next (s.recordFault (.reserved p)) := by
  obtain ⟨i, hi, -⟩ | ⟨-, e⟩ := runPacket_cases p s
  · exact absurd hi (h i)
  · exact e

/-- The packet of an access as a number: W at bit 39, IDX at bits 36:32, DATA at bits 31:0 (R64). -/
theorem packet_mk_eq_ofNat (w : Bool) (d : Word) {idx : Nat} (h : idx < 32) :
    Packet.mk w (BitVec.ofNat 5 idx) d = BitVec.ofNat 40 ((0x80 * w.toNat + idx) * 2 ^ 32 + d.toNat) := by
  apply BitVec.eq_of_toNat_eq
  have hw : w.toNat ≤ 1 := Bool.toNat_le w
  have hd : d.toNat < 2 ^ 32 := d.isLt
  simp only [Packet.mk, BitVec.toNat_append, BitVec.toNat_ofBool, BitVec.toNat_ofNat, Nat.mod_eq_of_lt h]
  rw [← Nat.shiftLeft_add_eq_or_of_lt (by omega), ← Nat.shiftLeft_add_eq_or_of_lt (by omega),
    ← Nat.shiftLeft_add_eq_or_of_lt (by omega)]
  simp only [Nat.shiftLeft_eq]
  omega

/-! ### Accesses at an address -/

/-- The window is 0x80 bytes from BASE (R48). -/
theorem inWindow_iff (c : Config) (addr : Nat) :
    c.inWindow addr = true ↔ c.base ≤ addr ∧ addr < c.base + 0x80 := by
  simp [Config.inWindow]

/-- BASE is a multiple of the window's size (R7), so an address in the window is aligned as its offset is. -/
theorem base_add_mod_four (c : Config) (off : Nat) : (c.base + off) % 4 = off % 4 := by
  simp only [Config.base]
  omega

/-- A host access is well formed exactly when it is 32 bits wide and aligned (R50). -/
theorem access_wellFormed_iff (addr width : Nat) (w : Option Word) :
    HostAccess.wellFormed ⟨addr, width, w⟩ = true ↔ width = 32 ∧ addr % 4 = 0 := by
  simp [HostAccess.wellFormed]

/-- An access outside the window has no effect (R49). -/
theorem runAccess_outside {c : Config} {x : HostAccess} (h : x.addr < c.base ∨ c.base + 0x80 ≤ x.addr) (s : State) :
    runAccess c x s = .next s := by
  have out : ¬ c.inWindow x.addr = true := by rw [inWindow_iff]; omega
  simp [runAccess, out]

/-- A narrow or misaligned access to the window is recorded (R50). -/
theorem runAccess_bad {c : Config} {x : HostAccess} (hin : c.inWindow x.addr = true) (hbad : ¬ x.wellFormed = true)
    (s : State) : runAccess c x s = .next (s.recordFault (.badAccess x.addr x.width)) := by
  simp [runAccess, hin, hbad]

/-- An aligned 32-bit access to a word of the window runs as the packet of its index, W and DATA (R49, R64). -/
theorem runAccess_word (c : Config) (w : Option Word) {idx : Nat} (h : idx < 32) (s : State) :
    runAccess c ⟨c.base + 4 * idx, 32, w⟩ s =
      runPacket (BitVec.ofNat 40 ((0x80 * w.isSome.toNat + idx) * 2 ^ 32 + (w.getD 0).toNat)) s := by
  have hin : c.inWindow (c.base + 4 * idx) = true := by rw [inWindow_iff]; omega
  have hwf : HostAccess.wellFormed ⟨c.base + 4 * idx, 32, w⟩ = true := by
    rw [access_wellFormed_iff, base_add_mod_four]; omega
  simp [runAccess, hin, hwf, accessPacket, packet_mk_eq_ofNat _ _ h]

/-! ### The obligations on accesses -/

/-- Settles O7: the packet is recorded, and recording changes the set of faults alone. -/
theorem reservedPacketIsOnlyRecorded : Obligations.ReservedPacketIsOnlyRecorded := by
  intro c p s h
  obtain ⟨fs, only, mem⟩ := recordFault_only (.reserved p) s
  exact ⟨fs, by rw [agentStep, runPacket_reserved h, only], mem⟩

/-- Settles O8: the access is in the window and not well formed, so it is recorded before any decoding. -/
theorem badAccessIsOnlyRecorded : Obligations.BadAccessIsOnlyRecorded := by
  intro c off width w s hoff hbad
  have hin : c.inWindow (c.base + off) = true := by rw [inWindow_iff]; omega
  have hill : ¬ HostAccess.wellFormed ⟨c.base + off, width, w⟩ = true := by
    rw [access_wellFormed_iff, base_add_mod_four]; omega
  obtain ⟨fs, only, mem⟩ := recordFault_only (.badAccess (c.base + off) width) s
  exact ⟨fs, by rw [agentStep, runAccess_bad hin hill, only], mem⟩

/-- Settles O9: a write and a read are the two cases of `runAccess_word`. -/
theorem accessIsItsPacket : Obligations.AccessIsItsPacket := by
  intro c s
  refine ⟨fun idx v h => ?_, fun idx h => ?_, fun x h => runAccess_outside h s⟩
  · exact runAccess_word c (some v) h s
  · simpa [agentStep] using runAccess_word c none h s

/-! ### The trace -/

/-- Settles O50: no instruction, fault, tick or pins step touches the trace; a BUS step appends the event of its mode, and
none in TX_DATA, where the byte is shifted out and the acknowledge still to come (R110). -/
theorem traceGrowsByOneEventOfThePendingOperation : Obligations.TraceGrowsByOneEventOfThePendingOperation := by
  intro c a s t hreset h
  obtain ⟨i, h', _, u, -, hu, rfl⟩ | ⟨f, rfl⟩ | ⟨_, rfl⟩ | ⟨d, rfl, hb⟩ | ⟨-, rfl⟩ | ⟨v, -, rfl⟩ | ⟨e, -⟩ :=
    agentStep_cases h
  · obtain ⟨-, -, -, -, -, -, -, htrace, -⟩ := exec_keeps hu
    exact .inl htrace
  · exact .inl rfl
  · exact .inl rfl
  · obtain ⟨hm, rfl⟩ | ⟨hm, rfl⟩ | ⟨hm, rfl⟩ | ⟨-, rfl⟩ | ⟨hm, rfl⟩ | ⟨hm, rfl⟩ | ⟨hm, rfl⟩ := busStep_cases hb
    · exact .inr ⟨d, .start, rfl, rfl, by simp [hm]⟩
    · exact .inr ⟨d, .restart, rfl, rfl, by simp [hm]⟩
    · exact .inr ⟨d, .stop, rfl, rfl, by simp [hm]⟩
    · exact .inl rfl
    · exact .inr ⟨d, .tx s.trn d.ack, rfl, rfl, by simp [hm]⟩
    · exact .inr ⟨d, .rx d.byte, rfl, rfl, by simp [hm]⟩
    · exact .inr ⟨d, .mack s.ackl, rfl, rfl, by simp [hm]⟩
  · exact .inl (by rw [tickStep_frame])
  · exact .inl rfl
  · exact absurd e hreset

/-! ### The step and its packet -/

/-- A step whose next agent step is given takes it off the agenda, runs it and closes the run. -/
theorem stepWith_cons {c : Config} {s : State} {a : AgentStep} {rest : List AgentStep} (h : s.agenda = a :: rest) :
    stepWith c s = onNext State.closeRun (agentStep c a { s with agenda := rest }) := by
  simp [stepWith, h, stepAs]

/-- Settles O5: the agenda gives the packet, and the packet its instruction. -/
theorem stepRunsTheDecodedInstruction : Obligations.StepRunsTheDecodedInstruction := by
  intro s p i rest ha hp
  rw [step, stepWith_cons ha, agentStep, runPacket_ok hp]

/-- A table word that decodes is a packet that decodes to the same instruction (R64). -/
theorem decode_tablePacket {nbits w : Nat} {i : Instr} (h : decodeTableWord nbits w = some i) :
    decode (tablePacket nbits w) = .ok i := by
  simp only [decodeTableWord] at h
  split at h
  · split at h
    · next hd =>
      obtain rfl := Option.some.inj h
      exact hd
    · simp at h
  · simp at h

/-- Settles O6: the placed packet is the head of the agenda, and its step puts the agenda back as it was. -/
theorem placedWordRunsNext : Obligations.PlacedWordRunsNext := fun s w i _ h =>
  stepRunsTheDecodedInstruction (s.withFetchWord 40 w) _ i s.agenda rfl (decode_tablePacket h)

end Sys2Proof.Machine

/-! # Proofs: packets, operands and host programs (30_encoding.md) -/

namespace Sys2Proof.Machine

/-! ### Decoding and encoding -/

/-- The opcode byte of every instruction is {W, 00, IDX}, and with the operand it selects the instruction (R64, R65). -/
theorem opcodeByte_statement (i : Instr) : Laws.OpcodeByte.Statement i := by
  cases i with
  | rdCon => exact Laws.OpcodeByte.rdCon
  | rdStat => exact Laws.OpcodeByte.rdStat
  | rdTrn => exact Laws.OpcodeByte.rdTrn
  | rdRcv => exact Laws.OpcodeByte.rdRcv
  | rdRaw => exact Laws.OpcodeByte.rdRaw
  | rdCel => exact Laws.OpcodeByte.rdCel
  | rdUnit => exact Laws.OpcodeByte.rdUnit
  | rdConv => exact Laws.OpcodeByte.rdConv
  | rdTick => exact Laws.OpcodeByte.rdTick
  | rdTickcnt => exact Laws.OpcodeByte.rdTickcnt
  | rdIn => exact Laws.OpcodeByte.rdIn
  | rdEvt => exact Laws.OpcodeByte.rdEvt
  | wrCon d => exact Laws.OpcodeByte.wrCon d
  | wrConclr d => exact Laws.OpcodeByte.wrConclr d
  | wrConset d => exact Laws.OpcodeByte.wrConset d
  | wrConinv d => exact Laws.OpcodeByte.wrConinv d
  | wrStat d => exact Laws.OpcodeByte.wrStat d
  | wrStatclr d => exact Laws.OpcodeByte.wrStatclr d
  | wrStatset d => exact Laws.OpcodeByte.wrStatset d
  | wrStatinv d => exact Laws.OpcodeByte.wrStatinv d
  | wrTrn d => exact Laws.OpcodeByte.wrTrn d
  | wrRaw d => exact Laws.OpcodeByte.wrRaw d
  | wrUnit d => exact Laws.OpcodeByte.wrUnit d
  | wrTickcnt d => exact Laws.OpcodeByte.wrTickcnt d

/-- Settles O1: the packet is opcode byte and operand, and the table gives the instruction back from the two. -/
theorem decodeOfEncodeIsTheInstruction : Obligations.DecodeOfEncodeIsTheInstruction := by
  intro i _
  obtain ⟨roundTrip, -⟩ := opcodeByte_statement i
  rw [encode, decode_append, roundTrip]

/-- Bit 32 + k of a packet is bit k of its opcode byte (R65). -/
theorem encode_getLsbD_opb (i : Instr) (k : Nat) : (encode i).getLsbD (32 + k) = i.opb.getLsbD k := by
  show (i.opb ++ i.data : BitVec (8 + 32)).getLsbD (32 + k) = _
  rw [BitVec.getLsbD_append]
  simp

/-- A packet as a number: the opcode byte above the 32 bits of DATA (R64, R65). -/
theorem encode_toNat (i : Instr) : (encode i).toNat = i.opb.toNat * 2 ^ 32 + i.data.toNat := by
  show (i.opb ++ i.data : BitVec (8 + 32)).toNat = _
  rw [BitVec.toNat_append, ← Nat.shiftLeft_add_eq_or_of_lt i.data.isLt, Nat.shiftLeft_eq]

/-- Settles O3: W, the reserved field and IDX are those of the opcode byte, DATA is the operand. -/
theorem packetHoldsTheFieldsOfTheInstruction : Obligations.PacketHoldsTheFieldsOfTheInstruction := by
  intro i
  obtain ⟨-, w, rsv1, rsv0, idx⟩ := opcodeByte_statement i
  have hdata : i.data.toNat < 2 ^ 32 := i.data.isLt
  refine ⟨(encode_getLsbD_opb i 7).trans w, (encode_getLsbD_opb i 6).trans rsv1, (encode_getLsbD_opb i 5).trans rsv0,
    ?_, ?_⟩
  · rw [encode_toNat, show (i.opb.toNat * 2 ^ 32 + i.data.toNat) / 2 ^ 32 = i.opb.toNat by omega, idx]
  · rw [encode_toNat]
    omega

/-- Each row of the table decodes to its instruction, whatever DATA is (R65). -/
theorem decodeFields_row : ∀ row ∈ opcodeRows, ∀ d : Word, decodeFields row.1 d = .ok (row.2 d) := by
  simp [opcodeRows, decodeFields]

/-- An opcode byte of none of the 24 rows is reserved (R65, R69). -/
theorem decodeFields_reserved {o : BitVec 8} (h : ∀ row ∈ opcodeRows, row.1 ≠ o) (d : Word) :
    decodeFields o d = .error (.reservedOpcode o) := by
  unfold decodeFields
  split
  case h_25 => rfl
  all_goals exact absurd h (by simp [opcodeRows])

/-- Settles O2: the rows and the reserved opcode bytes are the two cases of the decoder's table. -/
theorem decodeFollowsTheOpcodeTable : Obligations.DecodeFollowsTheOpcodeTable := by
  refine ⟨rfl, fun row hrow d => ?_, fun p h => decodeFields_reserved h _⟩
  rw [decode_append, decodeFields_row row hrow]

/-- Settles O4: each of the six words is one row of the table, evaluated. -/
theorem writtenOutWordsDecode : Obligations.WrittenOutWordsDecode := by
  refine ⟨?_, ?_, ?_, ?_, ?_, ?_⟩ <;> decide

/-! ### The DATA bits a write uses -/

/-- The low n bits of an operand are those of its value modulo 2^n. -/
theorem extractLsb'_eq_of_mod_eq {n : Nat} {d d' : Word} (h : d.toNat % 2 ^ n = d'.toNat % 2 ^ n) :
    d.extractLsb' 0 n = d'.extractLsb' 0 n := by
  apply BitVec.eq_of_toNat_eq
  simpa using h

/-- The DATA bits of a CON write are DATA[5:0] (R66). -/
theorem conData_eq_of_bits {d d' : Word} (h : ∀ k, k < 6 → d.getLsbD k = d'.getLsbD k) :
    conData d = conData d' := by
  apply BitVec.eq_of_getLsbD_eq
  intro k hk
  simpa [conData, hk] using h k hk

/-- A CON write in each of its four forms is `conWrite` (R88 to R91). -/
theorem exec_conWriteInstr (f : AliasFn) (d : Word) (s : State) :
    exec (conWriteInstr f d) s = .next (conWrite f d s) := by
  cases f <;> rfl

/-- A STAT write in each of its four forms is `statWrite` (R99 to R102). -/
theorem exec_statWriteInstr (f : AliasFn) (d : Word) (s : State) :
    exec (statWriteInstr f d) s = .next (statWrite f d s) := by
  cases f <;> rfl

/-- A CON write uses DATA[5:0] alone (R66). -/
theorem conWrite_congr {d d' : Word} (h : conData d = conData d') (f : AliasFn) (s : State) :
    conWrite f d s = conWrite f d' s := by
  have hreq : conRequest f d s.con = conRequest f d' s.con := by simp only [conRequest, h]
  have hack : conAckdt f d s.con = conAckdt f d' s.con := by simp only [conAckdt, h]
  rw [conWrite, conWrite, hreq, hack]

/-- A STAT write uses DATA[6] and DATA[7] alone (R66, R98). -/
theorem statWrite_congr {d d' : Word} (h6 : d.getLsbD 6 = d'.getLsbD 6) (h7 : d.getLsbD 7 = d'.getLsbD 7) (f : AliasFn)
    (s : State) : statWrite f d s = statWrite f d' s := by
  have bit (k : Nat) (hk : k < 32) (h : d.getLsbD k = d'.getLsbD k) :
      (f.apply s.stat.word d).getLsbD k = (f.apply s.stat.word d').getLsbD k := by
    rw [AliasFn.apply_bit f _ _ k hk, AliasFn.apply_bit f _ _ k hk, h]
  rw [statWrite, statWrite, bit 6 (by decide) h6, bit 7 (by decide) h7]

/-- A TRN write uses the byte to send alone: DIR is its bit 0 (R66, R103). -/
theorem trnWrite_congr {d d' : Word} (h : trnData d = trnData d') (s : State) : trnWrite d s = trnWrite d' s := by
  have bit0 (x : Word) : x.getLsbD 0 = (trnData x).getLsbD 0 := by simp [trnData]
  rw [trnWrite, trnWrite, bit0 d, bit0 d', h]

/-- Settles O10: each write reads its operand through the DATA bits it uses. -/
theorem unusedDataBitsAreIgnored : Obligations.UnusedDataBitsAreIgnored := by
  intro d d' s
  refine ⟨fun f h => ?con, fun f h6 h7 => ?stat, fun h => ?trn, fun h => ?raw, fun h => ?unit⟩
  case con => rw [exec_conWriteInstr, exec_conWriteInstr, conWrite_congr (conData_eq_of_bits h)]
  case stat => rw [exec_statWriteInstr, exec_statWriteInstr, statWrite_congr h6 h7]
  case trn =>
    have hb : trnData d = trnData d' := extractLsb'_eq_of_mod_eq h
    simp only [exec, execWrTrn, trnWrite_congr hb]
  case raw =>
    have hr : rawData d = rawData d' := extractLsb'_eq_of_mod_eq h
    simp only [exec, execWrRaw, hr]
  case unit =>
    have hu : unitData d = unitData d' := extractLsb'_eq_of_mod_eq h
    simp only [exec, execWrUnit, hu]

/-! ### Host programs -/

/-- A construct that the block does not see leaves the host's program as R72 says. -/
theorem hostSilent_eq_programAfter (c : Config) (f : Frame) (callers : List Frame) (todo : List HostStmt)
    {st : HostStmt} (hread : ∀ x r, st ≠ .read x r) (hwrite : ∀ r v, st ≠ .write r v) :
    hostSilent c st todo f callers = programAfter c f callers todo st := by
  cases st with
  | nop => rfl
  | seq a b => rfl
  | read x r => exact absurd rfl (hread x r)
  | write r v => exact absurd rfl (hwrite r v)
  | assign x e => rfl
  | ifThen e body => by_cases h : condHolds f.temps e <;> simp [hostSilent, programAfter, h]
  | doUntil body e => rfl
  | ret e =>
    obtain ⟨temps, todo', dest⟩ := f
    cases callers <;> cases dest <;> rfl
  | call x p arg => rfl

/-- The host's step at a construct that the block does not see (R72). -/
theorem hostStep_construct {c : Config} {s : State} {f : Frame} {callers : List Frame} {st : HostStmt}
    {todo : List HostStmt} (hs : s.host = .running f callers) (ht : f.todo = st :: todo)
    (hread : ∀ x r, st ≠ .read x r) (hwrite : ∀ r v, st ≠ .write r v) :
    hostStep c s = .next { s with host := programAfter c f callers todo st } := by
  rw [← hostSilent_eq_programAfter c f callers todo hread hwrite]
  cases st with
  | read x r => exact absurd rfl (hread x r)
  | write r v => exact absurd rfl (hwrite r v)
  | nop | seq | assign | ifThen | doUntil | ret | call => simp [hostStep, hs, ht]

/-- The host's step at the end of a body: it leaves the body with no value (R72). -/
theorem hostStep_end {c : Config} {s : State} {f : Frame} {callers : List Frame} (hs : s.host = .running f callers)
    (ht : f.todo = []) : hostStep c s = .next { s with host := hostReturn none f callers } := by
  simp [hostStep, hs, ht]

/-- Back at a caller with no value, no temporary is assigned. -/
theorem hostReturn_none_cons (f g : Frame) (gs : List Frame) : hostReturn none f (g :: gs) = .running g gs := by
  simp [hostReturn]

/-- A DO body goes round again exactly when its UNTIL condition does not hold. -/
theorem condHolds_untilFails (temps : List (Tmp × HostValue)) (e : HostExpr) :
    condHolds temps (untilFails e) = !condHolds temps e := by
  by_cases h : intTruth (evalExpr temps e).toInt <;> simp [condHolds, untilFails, evalExpr, h]

/-- A temporary just assigned reads as the value, every other as before. -/
theorem tempGet_tempSet (temps : List (Tmp × HostValue)) (x y : Tmp) (v : HostValue) :
    tempGet y (tempSet x v temps) = if y = x then v else tempGet y temps := by
  induction temps with
  | nil => simp [tempSet, tempGet, eq_comm]
  | cons head rest ih =>
    obtain ⟨u, w⟩ := head
    by_cases hu : u = x
    · subst hu
      by_cases hy : y = u <;> simp [tempSet, tempGet, hy, Ne.symm]
    · by_cases hy : u = y
      · subst hy
        simp [tempSet, tempGet, hu]
      · simp [tempSet, tempGet, hu, hy, ih]

/-- Settles O55: the constructs, the two ends of a body, UNTIL and assignment, each by its lemma. -/
theorem hostConstructsLeaveTheBlockUnchanged : Obligations.HostConstructsLeaveTheBlockUnchanged := by
  refine ⟨fun c s f callers hs => ⟨fun st todo => hostStep_construct hs, fun ht hc => ?returned,
    fun g gs ht hc => ?caller⟩, condHolds_untilFails, tempGet_tempSet⟩
  case returned =>
    subst hc
    exact hostStep_end hs ht
  case caller =>
    subst hc
    rw [agentStep, hostStep_end hs ht, hostReturn_none_cons]

/-! ### Read and write statements -/

/-- The word an expression writes is its value modulo 2^32 (R71; log 14). -/
theorem exprWord_eq {temps : List (Tmp × HostValue)} {v : HostExpr} {w : Word}
    (h : (w.toNat : Int) = (evalExpr temps v).toInt % 2 ^ 32) : exprWord temps v = w := by
  apply BitVec.eq_of_toNat_eq
  rw [exprWord, BitVec.toNat_ofInt]
  push_cast
  omega

/-- The host's step at a write statement performs the instruction (R72). -/
theorem hostStep_write {c : Config} {s : State} {f : Frame} {callers : List Frame} {r : WriteReg} {v : HostExpr}
    {todo : List HostStmt} (hs : s.host = .running f callers) (ht : f.todo = .write r v :: todo) :
    hostStep c s =
      exec (r.instr (exprWord f.temps v)) { s with host := .running { f with todo := todo } callers } := by
  simp [hostStep, hs, ht, hostSilent]

/-- A read answers a value, and it neither looks at the host's program nor changes it. -/
theorem exec_read (r : ReadReg) (s : State) :
    ∃ t w, exec r.instr s = .next t ∧ t.readData = some w ∧
      ∀ h, exec r.instr { s with host := h } = .next { t with host := h } := by
  cases r <;> exact ⟨_, _, rfl, rfl, fun _ => rfl⟩

/-- The host takes the value read into the temporary. -/
theorem takeRead_running {t : State} {w : Word} (hw : t.readData = some w) (x : Tmp) (f : Frame)
    (callers : List Frame) :
    State.takeRead { t with host := .running f callers } x =
      { t with host := .running (f.assign x (.int w.toNat)) callers } := by
  simp [State.takeRead, hw]

/-- The host's step at a read statement performs the instruction, and its value goes to the temporary (R72). -/
theorem hostStep_read {c : Config} {s t : State} {f : Frame} {callers : List Frame} {x : Tmp} {r : ReadReg} {w : Word}
    {todo : List HostStmt} (hs : s.host = .running f callers) (ht : f.todo = .read x r :: todo)
    (hw : t.readData = some w) (hr : ∀ h, exec r.instr { s with host := h } = .next { t with host := h }) :
    hostStep c s = .next { t with host := .running ⟨tempSet x (.int w.toNat) f.temps, todo, f.dest⟩ callers } := by
  simp only [hostStep, hs, ht, hostSilent, hr, onNext_next, takeRead_running hw, Frame.assign]

/-- Settles O56: a write by the word its expression gives, a read by the value it answers. -/
theorem hostStatementsPerformTheirInstruction : Obligations.HostStatementsPerformTheirInstruction := by
  intro c s f callers todo hs
  have write (r : WriteReg) (v : HostExpr) (w : Word) (ht : f.todo = .write r v :: todo)
      (hw : (w.toNat : Int) = (evalExpr f.temps v).toInt % 2 ^ 32) :
      agentStep c .host s = exec (r.instr w) { s with host := .running { f with todo := todo } callers } := by
    rw [agentStep, hostStep_write hs ht, exprWord_eq hw]
  refine ⟨fun r v w ht hv => write r v w ht ?_, write, fun x r ht => ?_⟩
  · have : w.toNat < 2 ^ 32 := w.isLt
    rw [hv, HostValue.toInt_int]
    omega
  · obtain ⟨t, w, ok, hw, host⟩ := exec_read r s
    exact ⟨t, w, ok, hw, hostStep_read hs ht hw host⟩

/-! ### Host expressions -/

/-- The value of an operation on two integers. -/
theorem evalExpr_bin {temps : List (Tmp × HostValue)} {e1 e2 : HostExpr} {a b : Int} (op : HostOp)
    (h1 : evalExpr temps e1 = .int a) (h2 : evalExpr temps e2 = .int b) :
    evalExpr temps (.bin op e1 e2) = .int (evalOp op a b) := by
  simp [evalExpr, h1, h2]

/-- Whether an operation on two integers holds as a condition. -/
theorem condHolds_bin {temps : List (Tmp × HostValue)} {e1 e2 : HostExpr} {a b : Int} (op : HostOp)
    (h1 : evalExpr temps e1 = .int a) (h2 : evalExpr temps e2 = .int b) :
    condHolds temps (.bin op e1 e2) = intTruth (evalOp op a b) := by
  rw [condHolds, evalExpr_bin op h1 h2, HostValue.toInt_int]

/-- A conjunction holds when both conditions do (R72). -/
theorem condHolds_and (temps : List (Tmp × HostValue)) (e1 e2 : HostExpr) :
    condHolds temps (.bin .and e1 e2) = (condHolds temps e1 && condHolds temps e2) := by
  simp [condHolds, evalExpr, evalOp]

/-- A disjunction holds when one of the conditions does (R72). -/
theorem condHolds_or (temps : List (Tmp × HostValue)) (e1 e2 : HostExpr) :
    condHolds temps (.bin .or e1 e2) = (condHolds temps e1 || condHolds temps e2) := by
  simp [condHolds, evalExpr, evalOp]

/-- Settles O59: each value is that of the operation on the operands' values. -/
theorem hostExpressionValues : Obligations.HostExpressionValues := by
  intro temps e1 e2 e3 a b m n
  refine ⟨fun _ => rfl, rfl, fun h1 h2 => ?integers, fun h1 h2 => ?naturals, condHolds_and temps e1 e2,
    condHolds_or temps e1 e2, rfl⟩
  case integers =>
    refine ⟨evalExpr_bin .add h1 h2, evalExpr_bin .sub h1 h2, evalExpr_bin .mul h1 h2, ?_, ?_, ?_, ?_⟩ <;>
      simp [condHolds_bin _ h1 h2, evalOp]
  case naturals =>
    refine ⟨⟨m &&& n, evalExpr_bin .band h1 h2, fun i => Nat.testBit_and m n i⟩,
      ⟨m ||| n, evalExpr_bin .bor h1 h2, fun i => Nat.testBit_or m n i⟩,
      ⟨m ^^^ n, evalExpr_bin .bxor h1 h2, fun i => Nat.testBit_xor m n i⟩, ?_, ?_⟩
    · rw [evalExpr_bin .shl h1 h2, evalOp, onNaturals_natCast, Nat.shiftLeft_eq]
    · rw [evalExpr_bin .shr h1 h2, evalOp, onNaturals_natCast, Nat.shiftRight_eq_div_pow]

/-! ### WAIT_IDLE -/

/-- Masking what RD CON returns with 0x1F leaves the command bits (R15, R86). -/
theorem Con.word_and_commands (c : Con) : c.word.toNat &&& 0x1F = c.commands.toNat := by
  rw [Nat.and_two_pow_sub_one_eq_mod _ 5]
  simp [Con.word, Con.commands]

/-- Bit 14 of STAT is TRSTAT (R23, R97). -/
theorem Stat.word_trstat (t : Stat) : t.word.toNat.testBit 14 = t.trstat := by
  obtain ⟨a, b, d, e, f, g, h, i⟩ := t
  revert a b d e f g h i
  decide

/-- Masking what RD STAT returns with 0x4000 leaves TRSTAT at its bit (R73). -/
theorem Stat.word_and_trstat (t : Stat) : t.word.toNat &&& 0x4000 = t.trstat.toNat * 0x4000 := by
  rw [← Stat.word_trstat]
  exact Nat.and_two_pow _ 14

/-- A mask test on a temporary that holds a natural number (R9). -/
theorem condHolds_mask_eq_zero {temps : List (Tmp × HostValue)} {x : Tmp} {n : Nat} (h : tempGet x temps = .int n)
    (mask : Nat) :
    condHolds temps (ebin .eq (ebin .band (etmp x) (elit mask)) (elit 0)) = decide (n &&& mask = 0) := by
  have masked : evalExpr temps (ebin .band (etmp x) (elit mask)) = .int (n &&& mask : Nat) :=
    evalExpr_bin (e1 := etmp x) (e2 := elit mask) .band h rfl
  rw [ebin, condHolds_bin .eq masked (show evalExpr temps (elit 0) = .int 0 from rfl), evalOp, intTruth_truth]
  exact decide_eq_decide.mpr Int.natCast_eq_zero

/-- The exit test of WAIT_IDLE holds exactly in an idle state (R73, R31). -/
theorem condHolds_idleSeen {s : State} {temps : List (Tmp × HostValue)}
    (hc : tempGet 1 temps = .int s.con.word.toNat) (hs : tempGet 2 temps = .int s.stat.word.toNat) :
    condHolds temps (idleSeen 1 2) = s.idle := by
  have con := condHolds_mask_eq_zero hc 0x1F
  have stat := condHolds_mask_eq_zero hs 0x4000
  rw [Con.word_and_commands] at con
  rw [Stat.word_and_trstat] at stat
  calc condHolds temps (idleSeen 1 2)
      = (decide (s.con.commands.toNat = 0) && decide (s.stat.trstat.toNat * 0x4000 = 0)) := by
        rw [← con, ← stat, ← condHolds_and]
        rfl
    _ = s.idle := by
        cases h : s.stat.trstat <;> simp [State.idle, h, ← BitVec.toNat_inj, Bool.beq_eq_decide_eq]

/-- `!=` is the negation of `==`. -/
theorem condHolds_ne (temps : List (Tmp × HostValue)) (a b : HostExpr) :
    condHolds temps (.bin .ne a b) = !condHolds temps (.bin .eq a b) := by
  simp [condHolds, evalExpr, evalOp, bne]

/-- The busy test of WAIT_IDLE is the negation of its exit test. -/
theorem condHolds_busySeen (temps : List (Tmp × HostValue)) :
    condHolds temps (busySeen 1 2) = !condHolds temps (idleSeen 1 2) := by
  simp only [busySeen, idleSeen, ebin, condHolds_or, condHolds_and, condHolds_ne, Bool.not_and]

/-- Settles O57: the exit test is idleness, and the busy test its negation. -/
theorem waitIdleTestsIdleness : Obligations.WaitIdleTestsIdleness := by
  intro s temps hc hs
  have exitTest := condHolds_idleSeen hc hs
  exact ⟨exitTest, by rw [condHolds_busySeen, exitTest]⟩

end Sys2Proof.Machine

/-! # Proofs: the bus master (40_i2c_master.md) -/

namespace Sys2Proof.Machine

/-! ### The status words and the write functions, bit by bit -/

/-- An opcode byte is that of an instruction when its row of the decoder's table is (R65). -/
theorem encodedBy_of_decodeFields {o : BitVec 8} {i : Word → Instr} (h : ∀ d, decodeFields o d = .ok (i d)) :
    encodedBy o i :=
  fun d => (decode_append o d).trans (h d)

/-- Bit k of CON[5:0] is its field (R15). -/
theorem Con.bits_getLsbD (c : Con) (k : Nat) : c.bits.getLsbD k = c.field k := by
  match k with
  | 0 | 1 | 2 | 3 | 4 | 5 => simp [Con.field]
  | n + 6 => exact BitVec.getLsbD_of_ge _ _ (Nat.le_add_left 6 n)

/-- Bit k of the register CON is its field, and 0 above the fields (R22, R86). -/
theorem Con.word_getLsbD (c : Con) {k : Nat} (hk : k < 32) : c.word.getLsbD k = c.field k := by
  rw [← Con.bits_getLsbD, Con.word, BitVec.getLsbD_setWidth]
  simp [hk]

/-- Bit k of the register STAT is its field, and 0 where it has none (R22, R23, R97). -/
theorem Stat.word_getLsbD (t : Stat) {k : Nat} (hk : k < 32) : t.word.getLsbD k = t.field k := by
  simp only [Stat.word, BitVec.getLsbD_append]
  interval_cases k <;> simp [Stat.field]

/-- One bit of f(old, x) is f of the two bits (R87, R98). -/
theorem AliasFn.apply_getLsbD {w : Nat} (f : AliasFn) (old x : BitVec w) {k : Nat} (hk : k < w) :
    (f.apply old x).getLsbD k = aliasBit f (old.getLsbD k) (x.getLsbD k) := by
  rw [AliasFn.apply_bit f old x k hk]
  cases f <;> rfl

/-! ### Reads -/

/-- Settles O11: the value read is the register CON. -/
theorem readConReturnsItsFields : Obligations.ReadConReturnsItsFields :=
  ⟨encodedBy_of_decodeFields fun _ => rfl, fun s => ⟨s.con.word, rfl, fun _ => s.con.word_getLsbD⟩⟩

/-- Settles O12: the value read is the register STAT. -/
theorem readStatReturnsItsFields : Obligations.ReadStatReturnsItsFields :=
  ⟨encodedBy_of_decodeFields fun _ => rfl, fun s => ⟨s.stat.word, rfl, fun _ => s.stat.word_getLsbD⟩⟩

/-- Settles O13: each value read is the byte, zero-extended. -/
theorem readTrnAndRcvReturnTheByte : Obligations.ReadTrnAndRcvReturnTheByte := by
  refine ⟨encodedBy_of_decodeFields fun _ => rfl, encodedBy_of_decodeFields fun _ => rfl,
    fun s => ⟨⟨s.trn.zeroExtend 32, rfl, ?_⟩, s.rcv.zeroExtend 32, rfl, ?_⟩⟩
  · exact BitVec.toNat_setWidth_of_le (by decide)
  · exact BitVec.toNat_setWidth_of_le (by decide)

/-! ### The STAT writes -/

/-- A STAT write, bit by bit: I2COV and IWCOL by f, nothing else (R98). -/
theorem statWrite_eq (f : AliasFn) (d : Word) (s : State) :
    statWrite f d s =
      { s with stat.i2cov := aliasBit f s.stat.i2cov (d.getLsbD 6),
               stat.iwcol := aliasBit f s.stat.iwcol (d.getLsbD 7) } := by
  have bit (k : Nat) (hk : k < 32) :
      (f.apply s.stat.word d).getLsbD k = aliasBit f (s.stat.field k) (d.getLsbD k) := by
    rw [AliasFn.apply_getLsbD f _ _ hk, Stat.word_getLsbD _ hk]
  rw [statWrite, bit 6 (by decide), bit 7 (by decide)]
  rfl

/-- Settles O21: each STAT write is `statWrite` with its function f. -/
theorem statWritesChangeI2covAndIwcolOnly : Obligations.StatWritesChangeI2covAndIwcolOnly := by
  refine ⟨encodedBy_of_decodeFields fun _ => rfl, encodedBy_of_decodeFields fun _ => rfl,
    encodedBy_of_decodeFields fun _ => rfl, encodedBy_of_decodeFields fun _ => rfl, fun f d s => ?_⟩
  rw [exec_statWriteInstr, statWrite_eq]

/-! ### The request of a CON write -/

/-- Bit k of the value a CON write computes, f of CON's field and DATA (R87). -/
theorem conValue_getLsbD (f : AliasFn) (d : Word) (c : Con) {k : Nat} (hk : k < 6) :
    (f.apply c.bits (conData d)).getLsbD k = aliasBit f (c.field k) (d.getLsbD k) := by
  rw [AliasFn.apply_getLsbD f _ _ hk, Con.bits_getLsbD]
  simp [conData, hk]

/-- ACKDT after a CON write (R87). -/
theorem conAckdt_eq (f : AliasFn) (d : Word) (c : Con) : conAckdt f d c = aliasBit f c.ackdt (d.getLsbD 5) :=
  conValue_getLsbD f d c (by decide)

/-- Bit k of the request says whether the write newly sets command bit k (R87). -/
theorem conRequest_getLsbD (f : AliasFn) (d : Word) (c : Con) {k : Nat} (hk : k < 5) :
    (conRequest f d c).getLsbD k = newlySet f d c k := by
  rw [newlySet, ← conValue_getLsbD f d c (by omega), ← Con.bits_getLsbD]
  simp [conRequest, Con.commands, hk]

/-- A write that newly sets no command bit requests nothing (R87). -/
theorem conRequest_eq_zero {f : AliasFn} {d : Word} {c : Con} (h : ∀ k, k < 5 → newlySet f d c k = false) :
    conRequest f d c = 0 := by
  apply BitVec.eq_of_getLsbD_eq
  intro k hk
  simpa [conRequest_getLsbD f d c hk] using h k hk

/-- A write that newly sets a command bit requests something (R87). -/
theorem conRequest_ne_zero {f : AliasFn} {d : Word} {c : Con} {k : Nat} (hk : k < 5) (h : newlySet f d c k = true) :
    conRequest f d c ≠ 0 := by
  intro e
  rw [← conRequest_getLsbD f d c hk, e] at h
  simp at h

theorem popcount_eq_sum (req : BitVec 5) : popcount req = ∑ k ∈ Finset.range 5, (req.getLsbD k).toNat := by
  simp [popcount, Finset.sum_range_succ]

/-- Two bits of a request count 2 at least. -/
theorem two_le_popcount {req : BitVec 5} {j k : Nat} (hjk : j < k) (hk : k < 5) (hj : req.getLsbD j = true)
    (hk' : req.getLsbD k = true) : 2 ≤ popcount req := by
  have both : ({j, k} : Finset Nat) ⊆ Finset.range 5 := by
    intro i hi
    simp only [Finset.mem_insert, Finset.mem_singleton] at hi
    exact Finset.mem_range.mpr (by omega)
  calc 2 = ∑ i ∈ {j, k}, (req.getLsbD i).toNat := by rw [Finset.sum_pair hjk.ne, hj, hk']; rfl
    _ ≤ ∑ i ∈ Finset.range 5, (req.getLsbD i).toNat := Finset.sum_le_sum_of_subset both
    _ = popcount req := (popcount_eq_sum req).symm

/-- The command bit of CON that asks for a command (R15, R87). -/
def Command.bit : Command → Nat
  | .start => 0
  | .restart => 1
  | .stop => 2
  | .recv => 3
  | .ack => 4

/-- A write that newly sets the bit of one command alone requests that command (R87). -/
theorem conRequest_eq_twoPow {f : AliasFn} {d : Word} {c : Con} {k : Nat} (only : newlySetsOnly f d c k) :
    conRequest f d c = BitVec.twoPow 5 k := by
  apply BitVec.eq_of_getLsbD_eq
  intro j hj
  rw [conRequest_getLsbD f d c hj, BitVec.getLsbD_twoPow, Bool.eq_iff_iff, only j hj]
  simp only [Bool.and_eq_true, decide_eq_true_eq]
  omega

/-- The request of one command is that command's row of R87. -/
theorem Command.ofReq_twoPow (k : Command) : Command.ofReq (BitVec.twoPow 5 k.bit) = some k := by
  cases k <;> rfl

theorem Command.popcount_twoPow (k : Command) : popcount (BitVec.twoPow 5 k.bit) = 1 := by
  cases k <;> rfl

/-! ### CON writes -/

/-- A CON write that newly sets no command bit updates ACKDT alone (R87). -/
theorem exec_conWriteInstr_noCommand {f : AliasFn} {d : Word} {s : State}
    (h : ∀ k, k < 5 → newlySet f d s.con k = false) :
    exec (conWriteInstr f d) s = .next { s with con.ackdt := aliasBit f s.con.ackdt (d.getLsbD 5) } := by
  rw [exec_conWriteInstr, conWrite, if_pos (conRequest_eq_zero h), conAckdt_eq]

/-- A request for two commands, or for one while the engine is busy, updates ACKDT and sets IWCOL (R87). -/
theorem exec_conWriteInstr_refused {f : AliasFn} {d : Word} {s : State} (request : conRequest f d s.con ≠ 0)
    (refused : 2 ≤ popcount (conRequest f d s.con) ∨ s.idle = false) :
    exec (conWriteInstr f d) s =
      .next { s with con.ackdt := aliasBit f s.con.ackdt (d.getLsbD 5), stat.iwcol := true } := by
  rw [exec_conWriteInstr, conWrite, if_neg request, conAckdt_eq]
  obtain two | busy := refused
  · rw [if_pos two]
    rfl
  · rw [busy, Bool.not_false, if_pos rfl, ite_self]
    rfl

/-- A CON write that newly sets the bit of one command alone, from idle, updates ACKDT and starts that command (R87). -/
theorem exec_conWriteInstr_accepted (k : Command) {f : AliasFn} {d : Word} {s : State} (idle : s.idle = true)
    (only : newlySetsOnly f d s.con k.bit) :
    exec (conWriteInstr f d) s =
      .next (startCommand k { s with con.ackdt := aliasBit f s.con.ackdt (d.getLsbD 5) }) := by
  have req := conRequest_eq_twoPow only
  have one := k.popcount_twoPow
  have nonzero : BitVec.twoPow 5 k.bit ≠ 0 := by cases k <;> decide
  rw [exec_conWriteInstr, conWrite, req, if_neg nonzero, if_neg (by omega), idle, k.ofReq_twoPow, conAckdt_eq]
  rfl

/-- Settles O14: clearing bits newly sets none. -/
theorem conclrOnlyClearsAckdt : Obligations.ConclrOnlyClearsAckdt := by
  refine ⟨encodedBy_of_decodeFields fun _ => rfl, fun d s => ?_⟩
  refine exec_conWriteInstr_noCommand (f := .clr) fun k _ => ?_
  cases h : s.con.field k <;> simp [newlySet, aliasBit, h]

/-- Settles O15: the request is empty, has two bits, or comes while the engine is busy. -/
theorem conWriteWithoutAnAcceptedCommand : Obligations.ConWriteWithoutAnAcceptedCommand := by
  refine fun f d s => ⟨exec_conWriteInstr_noCommand, ?_⟩
  rintro (⟨j, k, hjk, hk, hj, hk'⟩ | ⟨busy, k, hk, hk'⟩)
  · refine exec_conWriteInstr_refused (conRequest_ne_zero hk hk') (.inl (two_le_popcount hjk hk ?_ ?_))
    · rwa [conRequest_getLsbD f d s.con (hjk.trans hk)]
    · rwa [conRequest_getLsbD f d s.con hk]
  · exact exec_conWriteInstr_refused (conRequest_ne_zero hk hk') (.inr busy)

/-! ### The BUS step of each mode -/

section
variable {c : Config} {b : BusDraw} {s : State}

theorem agentStep_bus_idle (h : s.mode = .idle) : agentStep c (.bus b) s = .fault .busNotEnabled := by
  simp only [agentStep, busStep, h]

theorem agentStep_bus_starting (h : s.mode = .starting) : agentStep c (.bus b) s = .next (busStart s) := by
  simp only [agentStep, busStep, h]

theorem agentStep_bus_restarting (h : s.mode = .restarting) : agentStep c (.bus b) s = .next (busRestart s) := by
  simp only [agentStep, busStep, h]

theorem agentStep_bus_stopping (h : s.mode = .stopping) : agentStep c (.bus b) s = .next (busStop s) := by
  simp only [agentStep, busStep, h]

theorem agentStep_bus_txData (h : s.mode = .txData) : agentStep c (.bus b) s = .next (busTxData s) := by
  simp only [agentStep, busStep, h]

theorem agentStep_bus_txAck (h : s.mode = .txAck) : agentStep c (.bus b) s = .next (busTxAck b.ack s) := by
  simp only [agentStep, busStep, h]

theorem agentStep_bus_receiving (h : s.mode = .receiving) :
    agentStep c (.bus b) s = .next (busReceive c.ovfRcv b s) := by
  simp only [agentStep, busStep, h]

theorem agentStep_bus_masterAck (h : s.mode = .masterAck) : agentStep c (.bus b) s = .next (busMasterAck s) := by
  simp only [agentStep, busStep, h]

variable {ovf : OvfRcv}

/-- Without an overflow RCV takes the byte received (R112). -/
theorem rcvAfter_of_empty (h : s.stat.rbf = false) : rcvAfter ovf b s = b.byte := by
  simp [rcvAfter, h]

/-- After an overflow RCV is what OVF_RCV says (R112). -/
theorem rcvAfter_of_overflow (h : s.stat.rbf = true) :
    (ovf = .keepOld → rcvAfter ovf b s = s.rcv) ∧ (ovf = .takeNew → rcvAfter ovf b s = b.byte) ∧
      (ovf = .any → rcvAfter ovf b s = b.overflow) := by
  refine ⟨?_, ?_, ?_⟩ <;> rintro rfl <;> simp [rcvAfter, h]

/-- A receive with RBF = 0 takes the byte and leaves I2COV (R112). -/
theorem busReceive_of_empty (h : s.stat.rbf = false) :
    busReceive ovf b s =
      { s with con.rcen := false, rcv := b.byte, stat.rbf := true, mackp := true,
               trace := s.trace ++ [.rx b.byte] } := by
  simp [busReceive, rcvAfter_of_empty h, h]

/-- A receive with RBF = 1 overflows: it sets I2COV (R112). -/
theorem busReceive_of_overflow (h : s.stat.rbf = true) :
    busReceive ovf b s =
      { s with con.rcen := false, rcv := rcvAfter ovf b s, stat.i2cov := true, mackp := true,
               trace := s.trace ++ [.rx b.byte] } := by
  simp [busReceive, h]

end

/-- Settles O38: `busStep` by the mode, and what RCV takes by RBF. -/
theorem busStepOfEachMode : Obligations.BusStepOfEachMode := fun c b s =>
  ⟨agentStep_bus_starting, agentStep_bus_restarting, agentStep_bus_stopping, agentStep_bus_txData,
    agentStep_bus_txAck,
    fun h => ⟨rcvAfter c.ovfRcv b s, agentStep_bus_receiving h, rcvAfter_of_empty, rcvAfter_of_overflow⟩,
    agentStep_bus_masterAck⟩

/-- The BUS agent has a step exactly in the modes but IDLE (R106). -/
theorem agentStep_bus_enabled_iff (c : Config) (b : BusDraw) (s : State) :
    (∃ t, agentStep c (.bus b) s = .next t) ↔ s.mode ≠ .idle := by
  constructor
  · rintro ⟨t, ht⟩ idle
    simp [agentStep_bus_idle idle] at ht
  · intro busy
    cases h : s.mode with
    | idle => exact absurd h busy
    | starting => exact ⟨_, agentStep_bus_starting h⟩
    | restarting => exact ⟨_, agentStep_bus_restarting h⟩
    | stopping => exact ⟨_, agentStep_bus_stopping h⟩
    | txData => exact ⟨_, agentStep_bus_txData h⟩
    | txAck => exact ⟨_, agentStep_bus_txAck h⟩
    | receiving => exact ⟨_, agentStep_bus_receiving h⟩
    | masterAck => exact ⟨_, agentStep_bus_masterAck h⟩

/-- Settles O37: IDLE is the one mode without a BUS step, and it is idleness. -/
theorem busStepIsEnabledExactlyWhenBusy : Obligations.BusStepIsEnabledExactlyWhenBusy := fun c b s =>
  ⟨agentStep_bus_enabled_iff c b s, s.mode_idle_iff⟩

/-! ### The commands and their BUS steps -/

/-- Settles O16: from idle the write starts the command, and SEN decides the mode. -/
theorem startCommandAndItsBusStep : Obligations.StartCommandAndItsBusStep := by
  intro c f d s b idle only
  exact ⟨_, exec_conWriteInstr_accepted .start idle only, rfl, agentStep_bus_starting (State.mode_starting _ rfl)⟩

/-- Settles O17: as for START, SEN being clear at idle. -/
theorem restartCommandAndItsBusStep : Obligations.RestartCommandAndItsBusStep := by
  intro c f d s b idle only
  obtain ⟨sen, -⟩ := s.idle_iff.mp idle
  exact ⟨_, exec_conWriteInstr_accepted .restart idle only, rfl,
    agentStep_bus_restarting (State.mode_restarting _ sen rfl)⟩

/-- Settles O18: as for START, SEN and RSEN being clear at idle. -/
theorem stopCommandAndItsBusStep : Obligations.StopCommandAndItsBusStep := by
  intro c f d s b idle only
  obtain ⟨sen, rsen, -⟩ := s.idle_iff.mp idle
  exact ⟨_, exec_conWriteInstr_accepted .stop idle only, rfl,
    agentStep_bus_stopping (State.mode_stopping _ sen rsen rfl)⟩

/-- Settles O19: RBF, which the command leaves, decides between the byte and an overflow. -/
theorem receiveCommandAndItsBusStep : Obligations.ReceiveCommandAndItsBusStep := by
  intro c f d s b idle only
  obtain ⟨sen, rsen, pen, -, -, trstat⟩ := s.idle_iff.mp idle
  exact ⟨_, _, exec_conWriteInstr_accepted .recv idle only, rfl,
    agentStep_bus_receiving (State.mode_receiving _ sen rsen pen trstat rfl), fun empty => busReceive_of_empty empty,
    fun full => ⟨_, busReceive_of_overflow full, rcvAfter_of_overflow full⟩⟩

/-- Settles O20: the latch holds ACKDT as the write leaves it, and the BUS step sends the latch. -/
theorem masterAckCommandAndItsBusStep : Obligations.MasterAckCommandAndItsBusStep := by
  intro c f d s b later idle only
  obtain ⟨sen, rsen, pen, rcen, -, trstat⟩ := s.idle_iff.mp idle
  exact ⟨_, exec_conWriteInstr_accepted .ack idle only, rfl,
    agentStep_bus_masterAck (State.mode_masterAck _ sen rsen pen trstat rcen rfl)⟩

/-! ### The TRN write -/

/-- A TRN write from idle sends the byte, with the marks and the address-byte rule of R103. -/
theorem trnWrite_idle {s : State} (idle : s.idle = true) (d : Word) :
    trnWrite d s =
      { s with trn := trnData d, stat.tbf := true, stat.trstat := true, mackp := false, xaddr := false,
               dir := if s.xaddr then d.getLsbD 0 else s.dir,
               marks.noTransaction := s.marks.noTransaction || !s.stat.s,
               marks.dirMismatch := s.marks.dirMismatch || (s.stat.s && !s.xaddr && s.dir),
               marks.noMasterAck := s.marks.noMasterAck || s.mackp } := by
  simp [trnWrite, idle, trnMarks, Marks.addIf, Bool.and_assoc]

/-- A TRN write while the engine is busy is refused (R103). -/
theorem trnWrite_busy {s : State} (busy : s.idle = false) (d : Word) : trnWrite d s = s.refuseWrite := by
  rw [trnWrite, busy]
  rfl

/-- Settles O22: at idle the byte's two BUS steps are those of TX_DATA and TX_ACK, by TBF. -/
theorem trnWriteSendsTheByteOrIsRefused : Obligations.TrnWriteSendsTheByteOrIsRefused := by
  refine ⟨encodedBy_of_decodeFields fun _ => rfl, fun c d s b1 b2 => ⟨fun busy => ?_, fun idle => ?_⟩⟩
  · rw [exec, execWrTrn, trnWrite_busy busy]
    rfl
  · obtain ⟨sen, rsen, pen, -⟩ := s.idle_iff.mp idle
    refine ⟨_, trnData d, by simp [trnData], ?_, rfl, ?_, ?_⟩
    · rw [exec, execWrTrn, trnWrite_idle idle]
    · exact agentStep_bus_txData (State.mode_tx _ sen rsen pen rfl)
    · exact agentStep_bus_txAck (State.mode_tx _ sen rsen pen rfl)

/-! ### When a step is enabled -/

/-- Every instruction answers a next state (R140). -/
theorem exec_next (i : Instr) (s : State) : ∃ t, exec i s = .next t := by
  obtain ⟨t, ht, -⟩ := exec_next_effect i s
  exact ⟨t, ht⟩

/-- A packet always answers a next state: an instruction does, and so does a recorded fault. -/
theorem runPacket_next (p : Packet) (s : State) : ∃ t, runPacket p s = .next t := by
  obtain ⟨i, -, e⟩ | ⟨-, e⟩ := runPacket_cases p s
  · rw [e]
    exact exec_next i s
  · exact ⟨_, e⟩

/-- An access always answers a next state, in the window or outside it. -/
theorem runAccess_next (c : Config) (x : HostAccess) (s : State) : ∃ t, runAccess c x s = .next t := by
  rw [runAccess]
  split_ifs
  · exact ⟨s, rfl⟩
  · exact ⟨_, rfl⟩
  · exact runPacket_next _ s

/-- The host's program has a step exactly when it is running (R145; log 3). -/
theorem hostStep_enabled_iff (c : Config) (s : State) :
    (∃ t, hostStep c s = .next t) ↔ ∃ f callers, s.host = .running f callers := by
  constructor
  · rintro ⟨t, ht⟩
    cases h : s.host with
    | running f callers => exact ⟨f, callers, rfl⟩
    | noProgram => simp [hostStep, h] at ht
    | returned v => simp [hostStep, h] at ht
  · rintro ⟨f, callers, h⟩
    cases ht : f.todo with
    | nil => exact ⟨_, hostStep_end h ht⟩
    | cons st todo =>
      cases st with
      | read x r =>
        obtain ⟨t, w, -, hw, hr⟩ := exec_read r s
        exact ⟨_, hostStep_read h ht hw hr⟩
      | write r v =>
        rw [hostStep_write h ht]
        exact exec_next _ _
      | nop | seq | assign | ifThen | doUntil | ret | call => exact ⟨_, hostStep_construct h ht (by simp) (by simp)⟩

/-- An agent step is enabled unless it is a BUS step in mode IDLE or a host step with no program running. -/
theorem agentStep_enabled_iff (c : Config) (a : AgentStep) (s : State) :
    (∃ t, agentStep c a s = .next t) ↔
      (∀ b, a = .bus b → s.mode ≠ .idle) ∧ (a = .host → ∃ f callers, s.host = .running f callers) := by
  cases a with
  | packet p => simpa [agentStep] using runPacket_next p s
  | access x => simpa [agentStep] using runAccess_next c x s
  | host => simpa [agentStep] using hostStep_enabled_iff c s
  | bus b => simpa using agentStep_bus_enabled_iff c b s
  | tick => simp [agentStep]
  | pins v => simp [agentStep]
  | reset => simp [agentStep]

/-- Settles O54: a step is the agent step at the head of the agenda, and closing the run stops nothing. -/
theorem stepStopsExactlyWhenNoStepIsEnabled : Obligations.StepStopsExactlyWhenNoStepIsEnabled := by
  intro s
  constructor
  · rintro ⟨t, ht⟩
    obtain ⟨a, rest, u, ha, hu, -⟩ := stepWith_cases ht
    exact ⟨a, rest, ha, (agentStep_enabled_iff _ a { s with agenda := rest }).mp ⟨u, hu⟩⟩
  · rintro ⟨a, rest, ha, enabled⟩
    obtain ⟨u, hu⟩ := (agentStep_enabled_iff Config.platform a { s with agenda := rest }).mpr enabled
    exact ⟨u.closeRun, by rw [step, stepWith_cons ha, hu, onNext_next]⟩

/-! ### Idleness by two reads -/

/-- From s to t no command bit of CON and no TRSTAT is set that was not (R114). -/
structure StartsNothing (s t : State) : Prop where
  commands : ∀ k, k < 5 → t.con.field k = true → s.con.field k = true
  trstat   : t.stat.trstat = true → s.stat.trstat = true

/-- Idle, by the bits of CON and STAT that the host reads (R31). -/
theorem State.idle_iff_field (s : State) :
    s.idle = true ↔ (∀ k, k < 5 → s.con.field k = false) ∧ s.stat.trstat = false := by
  rw [State.idle_iff]
  constructor
  · rintro ⟨sen, rsen, pen, rcen, acken, trstat⟩
    refine ⟨fun k hk => ?_, trstat⟩
    interval_cases k <;> assumption
  · rintro ⟨commands, trstat⟩
    exact ⟨commands 0 (by decide), commands 1 (by decide), commands 2 (by decide), commands 3 (by decide),
      commands 4 (by decide), trstat⟩

theorem StartsNothing.of_eq {s t : State} (hc : t.con = s.con) (ht : t.stat.trstat = s.stat.trstat) :
    StartsNothing s t :=
  ⟨fun _ _ h => hc ▸ h, fun h => ht ▸ h⟩

/-- At an idle state there is no bit that could have been set. -/
theorem StartsNothing.of_idle {s t : State} (h : t.idle = true) : StartsNothing s t := by
  obtain ⟨commands, trstat⟩ := t.idle_iff_field.mp h
  exact ⟨fun k hk set => absurd set (Bool.eq_false_iff.mp (commands k hk)),
    fun set => absurd set (Bool.eq_false_iff.mp trstat)⟩

theorem StartsNothing.trans {s t u : State} (st : StartsNothing s t) (tu : StartsNothing t u) : StartsNothing s u :=
  ⟨fun k hk h => st.commands k hk (tu.commands k hk h), fun h => st.trstat (tu.trstat h)⟩

/-- Command bits that were clear stay clear. -/
theorem StartsNothing.commands_clear {s t : State} (st : StartsNothing s t)
    (h : ∀ k, k < 5 → s.con.field k = false) (k : Nat) (hk : k < 5) : t.con.field k = false :=
  Bool.eq_false_iff.mpr fun set => Bool.eq_false_iff.mp (h k hk) (st.commands k hk set)

/-- An idle state is left only by a step that starts something. -/
theorem StartsNothing.idle {s t : State} (st : StartsNothing s t) (h : s.idle = true) : t.idle = true := by
  obtain ⟨commands, trstat⟩ := s.idle_iff_field.mp h
  exact t.idle_iff_field.mpr
    ⟨st.commands_clear commands, Bool.eq_false_iff.mpr fun set => Bool.eq_false_iff.mp trstat (st.trstat set)⟩

/-- A BUS step clears bits only (R107 to R113). -/
theorem busStep_startsNothing {c : Config} {d : BusDraw} {s t : State} (h : busStep c d s = .next t) :
    StartsNothing s t := by
  obtain ⟨-, rfl⟩ | ⟨-, rfl⟩ | ⟨-, rfl⟩ | ⟨-, rfl⟩ | ⟨-, rfl⟩ | ⟨-, rfl⟩ | ⟨-, rfl⟩ := busStep_cases h
  all_goals
    refine ⟨fun k hk => ?_, ?_⟩
    · interval_cases k <;>
        simp [Con.field, busStart, busRestart, busStop, busTxData, busTxAck, busReceive, busMasterAck]
    · simp [busStart, busRestart, busStop, busTxData, busTxAck, busReceive, busMasterAck]

theorem tickStep_startsNothing (c : Config) (s : State) : StartsNothing s (tickStep c s) := by
  rw [tickStep_frame]
  exact .of_eq rfl rfl

theorem reset_startsNothing (s : State) : StartsNothing s s.resetBlock :=
  .of_idle (by simp [State.idle_iff, State.reset, Con.reset, Stat.reset])

/-- No read starts an operation. -/
theorem exec_read_startsNothing {i : Instr} {s t : State} (read : i.isWrite = false) (h : exec i s = .next t) :
    StartsNothing s t := by
  cases exec_effect h with
  | read | readRcv | readTick | readEvt => exact .of_eq rfl rfl
  | writeCon f => cases f <;> simp [conWriteInstr, Instr.isWrite] at read
  | writeStat f => cases f <;> simp [statWriteInstr, Instr.isWrite] at read
  | writeTrn | writeRaw | writeUnit | writeTickcnt => simp [Instr.isWrite] at read

/-- An agent step that performs no host write starts no operation. -/
theorem agentStep_startsNothing {c : Config} {a : AgentStep} {s t : State} (quiet : noHostWrite c a s)
    (h : agentStep c a s = .next t) : StartsNothing s t := by
  obtain ⟨i, h', _, u, hi, hu, rfl⟩ | ⟨f, rfl⟩ | ⟨_, rfl⟩ | ⟨d, -, hb⟩ | ⟨-, rfl⟩ | ⟨v, -, rfl⟩ | ⟨-, rfl⟩ :=
    agentStep_cases h
  · obtain ⟨commands, trstat⟩ := exec_read_startsNothing (quiet i hi) hu
    exact ⟨commands, trstat⟩
  · exact .of_eq rfl rfl
  · exact .of_eq rfl rfl
  · exact busStep_startsNothing hb
  · exact tickStep_startsNothing c s
  · exact .of_eq rfl rfl
  · exact reset_startsNothing s

/-- A run none of whose steps performs a host write starts no operation. -/
theorem runAgents_startsNothing {c : Config} {xs : List AgentStep} {s t : State}
    (quiet : alongRun c (noHostWrite c) xs s) (h : runAgents c xs s = .next t) : StartsNothing s t := by
  induction xs generalizing s with
  | nil =>
    obtain rfl : s = t := by simpa [runAgents] using h
    exact .of_eq rfl rfl
  | cons a xs ih =>
    obtain ⟨u', hu', hrun⟩ := runAgents_cons.mp h
    obtain ⟨quietStep, quietRest⟩ := quiet
    obtain ⟨u, hu, rfl⟩ := stepAs_cases hu'
    have close : StartsNothing u u.closeRun := .of_eq u.closeRun_con (by rw [u.closeRun_stat])
    exact ((agentStep_startsNothing quietStep hu).trans close).trans (ih (quietRest _ hu') hrun)

/-- The environment's steps perform no host write. -/
theorem noHostWrite_of_environment {c : Config} {a : AgentStep}
    (env : (∃ b, a = .bus b) ∨ a = .tick ∨ ∃ v, a = .pins v) (s : State) : noHostWrite c a s := by
  obtain ⟨b, rfl⟩ | rfl | ⟨v, rfl⟩ := env <;> simp [noHostWrite, performed]

/-- Settles O40: no step but a host write starts an operation, so the bits read as clear stay clear until one. -/
theorem idlenessIsDecidedByTwoReads : Obligations.IdlenessIsDecidedByTwoReads := by
  constructor
  · intro c a s t env h
    obtain ⟨commands, trstat⟩ := agentStep_startsNothing (noHostWrite_of_environment env s) h
    exact ⟨commands, trstat⟩
  · intro c xs ys s t u clear quietXs runXs trstat quietYs runYs
    have idle : t.idle = true :=
      t.idle_iff_field.mpr ⟨(runAgents_startsNothing quietXs runXs).commands_clear clear, trstat⟩
    exact ⟨idle, (runAgents_startsNothing quietYs runYs).idle idle⟩

end Sys2Proof.Machine

/-! # Proofs: the decoder and the converter (41_decoder_converter.md) -/

namespace Sys2Proof.Machine

/-! ### The decoded temperature -/

/-- The bits above the low k of a signed number are its quotient by 2^k, rounded down. -/
theorem toInt_extractLsb'_high {n k : Nat} (hn : n ≠ 0) (x : BitVec (n + k)) :
    (x.extractLsb' k n).toInt = x.toInt / 2 ^ k := by
  have parts : x.extractLsb' k n ++ x.extractLsb' 0 k = x := by
    rw [BitVec.extractLsb'_append_extractLsb'_eq_extractLsb' (Nat.zero_add k).symm, BitVec.extractLsb'_eq_self]
  have value : x.toInt = 2 ^ k * (x.extractLsb' k n).toInt + (x.extractLsb' 0 k).toNat := by
    conv_lhs => rw [← parts, BitVec.toInt_append, if_neg (by simpa using hn)]
  have low : (x.extractLsb' 0 k).toNat / (2 : Int) ^ k = 0 :=
    Int.ediv_eq_zero_of_lt (Int.natCast_nonneg _) (by exact_mod_cast BitVec.isLt _)
  rw [value, Int.mul_add_ediv_left _ _ (by positivity), low, add_zero]

/-- Decode(r) is r / 256 degrees in sixteenths, rounded down (R117). -/
theorem decodeTemp_eq_ediv (r : RawTemp) : decodeTemp r = r.toInt / 16 :=
  toInt_extractLsb'_high (n := 12) (k := 4) (by decide) r

/-- Decode(r) is a signed 12-bit value (R117). -/
theorem decodeTemp_range (r : RawTemp) : -2048 ≤ decodeTemp r ∧ decodeTemp r ≤ 2047 :=
  ⟨BitVec.le_toInt _, Int.le_of_lt_add_one BitVec.toInt_lt⟩

/-- RAW[15:4] is the signed high byte followed by the fraction's nibble (R118). -/
theorem decodeTemp_eq_integer_add_fraction (r : RawTemp) :
    decodeTemp r = 16 * (r.extractLsb' 8 8).toInt + (r.extractLsb' 4 4).toNat := by
  have parts : r.extractLsb' 8 8 ++ r.extractLsb' 4 4 = r.extractLsb' 4 12 :=
    BitVec.extractLsb'_append_extractLsb'_eq_extractLsb' rfl
  rw [decodeTemp, ← parts, BitVec.toInt_append]
  rfl

/-- A nibble's bits weigh 8, 4, 2 and 1. -/
theorem nibble_toNat : ∀ x : BitVec 4,
    x.toNat = 8 * (x.getLsbD 3).toNat + 4 * (x.getLsbD 2).toNat + 2 * (x.getLsbD 1).toNat + (x.getLsbD 0).toNat := by
  decide

/-- Settles O25: the high byte and the nibble are the parts of RAW[15:4]. -/
theorem decodedTemperatureIsIntegerPlusFraction : Obligations.DecodedTemperatureIsIntegerPlusFraction := by
  intro r
  refine ⟨decodeTemp_eq_integer_add_fraction r, toInt_extractLsb'_high (n := 8) (k := 8) (by decide) r, ?_,
    decodeTemp_range r⟩
  rw [nibble_toNat]
  simp only [BitVec.getLsbD_extractLsb']
  rfl

/-! ### The conversion -/

/-- A decoded temperature converts to a value far within 32 signed bits, so CONV loses nothing (R119, R126). -/
theorem convWord_toInt (r : RawTemp) (u : TempUnit) : (convWord r u).toInt = convert (decodeTemp r) u := by
  obtain ⟨low, high⟩ := decodeTemp_range r
  apply BitVec.toInt_ofInt_eq_self (by decide) <;> cases u <;> simp only [convert] <;> omega

/-- Settles O26: CONV is the conversion of RAW / 16, and its range is that of RAW[15:4], converted. -/
theorem readConvReturnsTheExactConversion : Obligations.ReadConvReturnsTheExactConversion := by
  refine ⟨encodedBy_of_decodeFields fun _ => rfl, fun s => ⟨convWord s.raw s.unit, rfl, ?_⟩⟩
  obtain ⟨low, high⟩ := decodeTemp_range s.raw
  rw [convWord_toInt, ← decodeTemp_eq_ediv]
  refine ⟨fun h => ?celsius, fun h => ?kelvin, fun h => ?fahrenheit⟩ <;> rw [h, convert] <;> omega

/-- Settles O27: each row of Convert is 400 times that of `to_unit`. -/
theorem conversionAgreesWithToUnit : Obligations.ConversionAgreesWithToUnit := by
  intro n
  refine ⟨?celsius, ?kelvin, ?fahrenheit⟩ <;> rw [convert] <;> push_cast <;> ring

/-! ### The register CEL -/

/-- Bit k of CEL is bit k + 4 of RAW below the sign, and the sign of RAW from there on (R117, R123). -/
theorem celWord_getLsbD (r : RawTemp) {k : Nat} (hk : k < 32) :
    (celWord r).getLsbD k = if k < 12 then r.getLsbD (k + 4) else r.getLsbD 15 := by
  have sign : (r.extractLsb' 4 12).msb = r.getLsbD 15 := by simp [BitVec.msb_eq_getLsbD_last]
  rw [celWord, BitVec.getLsbD_signExtend, sign]
  split_ifs with below <;> simp [hk, below, Nat.add_comm 4]

/-- Settles O24: the value read is CEL, bit by bit. -/
theorem readCelSignExtendsRaw : Obligations.ReadCelSignExtendsRaw := by
  refine ⟨encodedBy_of_decodeFields fun _ => rfl,
    fun s => ⟨celWord s.raw, rfl, fun k below => ?_, fun k sign hk => ?_⟩⟩
  · rw [celWord_getLsbD _ (by omega), if_pos below]
  · rw [celWord_getLsbD _ hk, if_neg (by omega)]

/-! ### The registers RAW and UNIT -/

/-- WR RAW stores DATA[15:0] (R66, R122). -/
theorem rawData_toNat (d : Word) : (rawData d).toNat = d.toNat % 65536 := by simp [rawData]

/-- The unit code of a write is DATA[1:0] (R66, R125). -/
theorem unitData_toNat (d : Word) : (unitData d).toNat = d.toNat % 4 := by simp [unitData]

/-- A code below 3 selects the unit it is the code of (R37, R125). -/
theorem TempUnit.exists_ofCode {b : BitVec 2} (legal : b.toNat ≠ 3) :
    ∃ u : TempUnit, TempUnit.ofCode b = some u ∧ u.code = b := by
  match b with
  | 0#2 => exact ⟨.celsius, rfl, rfl⟩
  | 1#2 => exact ⟨.kelvin, rfl, rfl⟩
  | 2#2 => exact ⟨.fahrenheit, rfl, rfl⟩
  | 3#2 => exact absurd rfl legal

/-- Code 3 selects no unit (R125). -/
theorem TempUnit.ofCode_three {b : BitVec 2} (three : b.toNat = 3) : TempUnit.ofCode b = none := by
  obtain rfl : b = 3#2 := BitVec.eq_of_toNat_eq three
  rfl

/-- No unit has code 3 (R37). -/
theorem TempUnit.code_toNat_ne_three (u : TempUnit) : u.code.toNat ≠ 3 := by cases u <;> decide

/-- WR UNIT writes UNIT alone: a legal code selects its unit, and code 3 leaves UNIT (R125). -/
theorem exec_wrUnit (d : Word) (s : State) :
    ∃ u : TempUnit, exec (.wrUnit d) s = .next { s with unit := u } ∧
      (d.toNat % 4 ≠ 3 → u.code.toNat = d.toNat % 4) ∧ (d.toNat % 4 = 3 → u = s.unit) := by
  refine ⟨(TempUnit.ofCode (unitData d)).getD s.unit, rfl, ?_⟩
  rw [← unitData_toNat]
  refine ⟨fun legal => ?_, fun three => by rw [TempUnit.ofCode_three three, Option.getD_none]⟩
  obtain ⟨u, selects, code⟩ := TempUnit.exists_ofCode legal
  rw [selects, Option.getD_some, code]

/-- Settles O28: a write is `exec_wrUnit`, and the value read is the code, zero-extended. -/
theorem unitIsWrittenWhenLegalAndReadBack : Obligations.UnitIsWrittenWhenLegalAndReadBack := by
  refine ⟨encodedBy_of_decodeFields fun _ => rfl, encodedBy_of_decodeFields fun _ => rfl,
    fun d s => ⟨exec_wrUnit d s, s.unit.code.zeroExtend 32, rfl, ?_⟩⟩
  have value : (s.unit.code.zeroExtend 32).toNat = s.unit.code.toNat := BitVec.toNat_setWidth_of_le (by decide)
  exact ⟨value, value ▸ s.unit.code_toNat_ne_three⟩

/-- Settles O23: a write stores `rawData`, and the value read is RAW, zero-extended. -/
theorem rawIsStoredAndReadBack : Obligations.RawIsStoredAndReadBack :=
  ⟨encodedBy_of_decodeFields fun _ => rfl, encodedBy_of_decodeFields fun _ => rfl, fun d s =>
    ⟨⟨rawData d, rfl, rawData_toNat d⟩, s.raw.zeroExtend 32, rfl, BitVec.toNat_setWidth_of_le (by decide)⟩⟩

/-- Settles O29: each read computes from RAW and UNIT as the write left them. -/
theorem celAndConvFollowTheWriteAtOnce : Obligations.CelAndConvFollowTheWriteAtOnce := by
  intro d e s
  have stored : rawData d = d.setWidth 16 := (BitVec.setWidth_eq_extractLsb' (by decide)).symm
  obtain ⟨u, write, legal, -⟩ := exec_wrUnit e s
  rw [← stored]
  exact ⟨_, _, _, _, _, rfl, rfl, rfl, rfl, rfl, write, legal, rfl, rfl⟩

end Sys2Proof.Machine

/-! # Proofs: the tick and the debouncer (42_tick_debounce.md) -/

namespace Sys2Proof.Machine

/-! ### Reads and the write of TICKCNT -/

/-- Settles O30: the flag, as a number, is what is returned and what is added to TICKCNT. -/
theorem readTickConsumesTheFlag : Obligations.ReadTickConsumesTheFlag := by
  refine ⟨encodedBy_of_decodeFields fun _ => rfl, fun s => ⟨_, _, rfl, ?_, ?_⟩⟩
  · cases s.tickf <;> rfl
  · cases s.tickf
    · simpa using (Nat.mod_eq_of_lt s.tickcnt.isLt).symm
    · simp

/-- Settles O31: TICKCNT is whole, and the pins are zero-extended. -/
theorem tickcntAndInAccesses : Obligations.TickcntAndInAccesses :=
  ⟨encodedBy_of_decodeFields fun _ => rfl, encodedBy_of_decodeFields fun _ => rfl,
    encodedBy_of_decodeFields fun _ => rfl,
    fun _ s => ⟨rfl, rfl, s.pins.zeroExtend 32, rfl, BitVec.toNat_setWidth_of_le (by decide)⟩⟩

/-- Bit k of the register EVT is its field, and 0 where it has none (R22, R42, R132). -/
theorem Evt.word_getLsbD (e : Evt) {k : Nat} (hk : k < 32) : e.word.getLsbD k = e.field k := by
  simp only [Evt.word, BitVec.getLsbD_append]
  interval_cases k <;> simp [Evt.field]

/-- EVEC is the low byte of the register EVT (R42). -/
theorem Evt.word_toNat_mod (e : Evt) : e.word.toNat % 256 = e.evec.toNat := by
  have low : e.word.setWidth 8 = e.evec := BitVec.setWidth_append_eq_right
  rw [← low, BitVec.toNat_setWidth]

/-- Settles O32: the value read is the register EVT; with no event waiting, the invariant has EVEC clear. -/
theorem readEvtReturnsAndClearsTheEvent : Obligations.ReadEvtReturnsAndClearsTheEvent := by
  refine ⟨encodedBy_of_decodeFields fun _ => rfl,
    fun s => ⟨s.evt.word, rfl, fun _ => s.evt.word_getLsbD, fun settle inv none => ?_⟩⟩
  obtain ⟨evec, -⟩ := inv.noEvent none
  rw [Evt.word_toNat_mod, evec]
  rfl

/-! ### A tick, case by case (R133, R134) -/

/-- The sample that completes SETTLE_TICKS released ones arms the debouncer. -/
theorem tickStep_arms {c : Config} {s : State} (unarmed : s.evt.armed = false) (released : s.pins = 0#8)
    (full : c.settleTicks ≤ s.rel.toNat + 1) :
    tickStep c s = { s with tickf := true, evt.armed := true, rel := 0 } := by
  simp [tickStep, debounceSample, sampleUnarmed, unarmed, released, full]

/-- A released sample before that is counted in REL. -/
theorem tickStep_counts {c : Config} {s : State} (unarmed : s.evt.armed = false) (released : s.pins = 0#8)
    (short : s.rel.toNat + 1 < c.settleTicks) :
    tickStep c s = { s with tickf := true, rel := BitVec.ofNat 8 (s.rel.toNat + 1) } := by
  simp [tickStep, debounceSample, sampleUnarmed, unarmed, released, short]

/-- A sample with an input active starts the count anew. -/
theorem tickStep_restarts {c : Config} {s : State} (unarmed : s.evt.armed = false) (active : s.pins ≠ 0#8) :
    tickStep c s = { s with tickf := true, rel := 0 } := by
  simp [tickStep, debounceSample, sampleUnarmed, unarmed, active]

/-- While armed, a released sample changes nothing of the debouncer. -/
theorem tickStep_staysArmed {c : Config} {s : State} (armed : s.evt.armed = true) (released : s.pins = 0#8) :
    tickStep c s = { s with tickf := true } := by
  simp [tickStep, debounceSample, sampleArmed, armed, released]

/-- While armed, a sample with an input active fires an event, which is latched when none waits. -/
theorem tickStep_latches {c : Config} {s : State} (armed : s.evt.armed = true) (active : s.pins ≠ 0#8)
    (free : s.evt.evtv = false) :
    tickStep c s = { s with tickf := true, evt.evec := s.pins, evt.evtv := true, evt.armed := false, rel := 0 } := by
  simp [tickStep, debounceSample, sampleArmed, armed, active, free]

/-- An event that fires while one waits is dropped, with EVOV set. -/
theorem tickStep_drops {c : Config} {s : State} (armed : s.evt.armed = true) (active : s.pins ≠ 0#8)
    (waiting : s.evt.evtv = true) :
    tickStep c s = { s with tickf := true, evt.evov := true, evt.armed := false, rel := 0 } := by
  simp [tickStep, debounceSample, sampleArmed, armed, active, waiting]

/-- REL does not wrap while it counts: SETTLE_TICKS is at most 255 (R7; log 19). -/
theorem rel_succ_toNat {c : Config} {r : BitVec 8} (short : r.toNat + 1 < c.settleTicks) :
    (BitVec.ofNat 8 (r.toNat + 1)).toNat = r.toNat + 1 := by
  have most : c.settleTicks ≤ 255 := c.settleLessOne.isLt
  rw [BitVec.toNat_ofNat]
  omega

/-- Settles O33: the cases are the lemmas on `tickStep`. -/
theorem tickSetsTheFlagAndSamples : Obligations.TickSetsTheFlagAndSamples := by
  intro c s
  simp only [agentStep, Host.Outcome.next.injEq]
  exact ⟨fun unarmed released _ full => tickStep_arms unarmed released full,
    fun unarmed released short => ⟨_, rel_succ_toNat short, tickStep_counts unarmed released short⟩,
    tickStep_restarts, tickStep_staysArmed, tickStep_latches, tickStep_drops, fun _ => rfl⟩

/-! ### The flag and the counter between two reads of TICK -/

/-- No instruction but RD TICK and WR TICKCNT changes TICKF or TICKCNT (R39, R40). -/
theorem exec_keeps_tick {i : Instr} {s t : State} (noRead : i ≠ .rdTick) (noWrite : ∀ d, i ≠ .wrTickcnt d)
    (h : exec i s = .next t) : t.tickcnt = s.tickcnt ∧ t.tickf = s.tickf := by
  cases exec_effect h with
  | readTick => exact absurd rfl noRead
  | writeTickcnt d => exact absurd rfl (noWrite d)
  | writeCon f d =>
    obtain ⟨_, _, _, _, _, _, e⟩ := conWrite_frame f d s
    simp [e]
  | writeTrn d => obtain ⟨-, e⟩ | ⟨-, _, _, e⟩ := trnWrite_cases d s <;> simp [e]
  | read | readRcv | readEvt | writeStat | writeRaw | writeUnit => exact ⟨rfl, rfl⟩

theorem busStep_keeps_tickf {c : Config} {d : BusDraw} {s t : State} (h : busStep c d s = .next t) :
    t.tickf = s.tickf := by
  obtain ⟨-, rfl⟩ | ⟨-, rfl⟩ | ⟨-, rfl⟩ | ⟨-, rfl⟩ | ⟨-, rfl⟩ | ⟨-, rfl⟩ | ⟨-, rfl⟩ := busStep_cases h <;> rfl

/-- A step between two reads of TICK that is no tick leaves TICKCNT and TICKF. -/
theorem agentStep_keeps_tick {c : Config} {a : AgentStep} {s t : State} (keeps : keepsTickCount c a s)
    (noTick : a ≠ .tick) (h : agentStep c a s = .next t) : t.tickcnt = s.tickcnt ∧ t.tickf = s.tickf := by
  obtain ⟨noReset, noRead, noWrite⟩ := keeps
  obtain ⟨i, h', _, u, hi, hu, rfl⟩ | ⟨f, rfl⟩ | ⟨_, rfl⟩ | ⟨d, -, hb⟩ | ⟨e, -⟩ | ⟨v, -, rfl⟩ | ⟨e, -⟩ :=
    agentStep_cases h
  · rw [hi] at noRead noWrite
    exact exec_keeps_tick (s := { s with host := h' }) (t := u) (by simpa using noRead) (by simpa using noWrite) hu
  · exact ⟨rfl, rfl⟩
  · exact ⟨rfl, rfl⟩
  · obtain ⟨-, -, htickcnt, -⟩ := busStep_keeps hb
    exact ⟨htickcnt, busStep_keeps_tickf hb⟩
  · exact absurd e noTick
  · exact ⟨rfl, rfl⟩
  · exact absurd e noReset

/-- A step between two reads of TICK leaves TICKCNT, and TICKF unless it is a tick, which sets it. -/
theorem stepAs_keepsTickCount {c : Config} {a : AgentStep} {s t : State} (keeps : keepsTickCount c a s)
    (h : stepAs c a s = .next t) : t.tickcnt = s.tickcnt ∧ (t.tickf = true ↔ s.tickf = true ∨ a = .tick) := by
  obtain ⟨u, hu, rfl⟩ := stepAs_cases h
  rw [State.closeRun_tickcnt, State.closeRun_tickf]
  by_cases tick : a = .tick
  · subst tick
    obtain rfl : tickStep c s = u := by simpa [agentStep] using hu
    simp [tickStep_frame]
  · obtain ⟨cnt, flag⟩ := agentStep_keeps_tick keeps tick hu
    simp [cnt, flag, tick]

/-- A run between two reads of TICK leaves TICKCNT, and its ticks set TICKF. -/
theorem runAgents_keepsTickCount {c : Config} {xs : List AgentStep} {s t : State}
    (keeps : alongRun c (keepsTickCount c) xs s) (h : runAgents c xs s = .next t) :
    t.tickcnt = s.tickcnt ∧ (t.tickf = true ↔ s.tickf = true ∨ .tick ∈ xs) := by
  induction xs generalizing s with
  | nil =>
    obtain rfl : s = t := by simpa [runAgents] using h
    simp
  | cons a xs ih =>
    obtain ⟨u, hu, hrun⟩ := runAgents_cons.mp h
    obtain ⟨keepsStep, keepsRest⟩ := keeps
    obtain ⟨stepCnt, stepFlag⟩ := stepAs_keepsTickCount keepsStep hu
    obtain ⟨runCnt, runFlag⟩ := ih (keepsRest u hu) hrun
    exact ⟨runCnt.trans stepCnt, by rw [runFlag, stepFlag, List.mem_cons, eq_comm (a := a), or_assoc]⟩

/-- Settles O34: after the run the flag is set, once, and TICKCNT is as before it. -/
theorem ticksBetweenTwoReadsCountOnce : Obligations.TicksBetweenTwoReadsCountOnce := by
  intro c xs s t keeps tick run
  obtain ⟨cnt, flag⟩ := runAgents_keepsTickCount keeps run
  have ticked : t.tickf = true := flag.mpr (.inr tick)
  refine ⟨_, rfl, ?_, rfl, ?_⟩
  · simp [ticked]
  · simp [ticked, cnt]

/-! ### Counting released samples while not armed -/

/-- The samples that REL has counted: released, one after the other (R43). -/
def State.counted (s : State) : List Byte := List.replicate s.rel.toNat 0

/-- The sample of an agent step: the pins, if it is a tick (R133). -/
def sampleOf (a : AgentStep) (s : State) : List Byte := if a = .tick then [s.pins] else []

/-- A step that is no tick leaves the debouncer, or clears the event it holds (R132), or resets it (R47). -/
theorem agentStep_debouncer {c : Config} {a : AgentStep} {s t : State} (noTick : a ≠ .tick)
    (h : agentStep c a s = .next t) :
    (t.rel = s.rel ∧ (t.evt = s.evt ∨ t.evt = { s.evt with evtv := false, evov := false, evec := 0 })) ∨
      (t.rel = 0 ∧ t.evt = Evt.reset) := by
  obtain ⟨i, h', _, u, -, hu, rfl⟩ | ⟨f, rfl⟩ | ⟨_, rfl⟩ | ⟨d, -, hb⟩ | ⟨e, -⟩ | ⟨v, -, rfl⟩ | ⟨-, rfl⟩ :=
    agentStep_cases h
  · obtain ⟨-, hrel, -⟩ := exec_keeps hu
    have hevt := exec_evt hu
    exact .inl ⟨hrel, hevt⟩
  · exact .inl ⟨rfl, .inl rfl⟩
  · exact .inl ⟨rfl, .inl rfl⟩
  · obtain ⟨hevt, hrel, -⟩ := busStep_keeps hb
    exact .inl ⟨hrel, .inl hevt⟩
  · exact absurd e noTick
  · exact .inl ⟨rfl, .inl rfl⟩
  · exact .inr ⟨rfl, rfl⟩

/-- EVT with its event cleared and not armed is EVT as after reset. -/
theorem Evt.cleared_of_unarmed {e : Evt} (unarmed : e.armed = false) :
    { e with evtv := false, evov := false, evec := 0 } = Evt.reset := by
  rw [Evt.reset, unarmed]

/-- While not armed, a step is the tick that completes SETTLE_TICKS released samples; or EVT stays or is as after reset,
and REL counts no more than the released samples at the end. -/
theorem stepAs_unarmed {c : Config} {a : AgentStep} {s t : State} (unarmed : s.evt.armed = false)
    (h : stepAs c a s = .next t) :
    (a = .tick ∧ s.pins = 0 ∧ c.settleTicks ≤ s.rel.toNat + 1) ∨
      ((t.evt = s.evt ∨ t.evt = Evt.reset) ∧ t.counted <:+ s.counted ++ sampleOf a s) := by
  obtain ⟨t, ht, rfl⟩ := stepAs_cases h
  simp only [State.counted, State.closeRun_evt, State.closeRun_rel]
  by_cases tick : a = .tick
  · subst tick
    obtain rfl : tickStep c s = t := by simpa [agentStep] using ht
    by_cases released : s.pins = 0
    · by_cases full : c.settleTicks ≤ s.rel.toNat + 1
      · exact .inl ⟨rfl, released, full⟩
      · have short : s.rel.toNat + 1 < c.settleTicks := by omega
        rw [tickStep_counts unarmed released short]
        exact .inr ⟨.inl rfl, by simp [sampleOf, rel_succ_toNat short, released, List.replicate_succ']⟩
    · rw [tickStep_restarts unarmed released]
      exact .inr ⟨.inl rfl, List.nil_suffix⟩
  · refine .inr ?_
    rw [sampleOf, if_neg tick, List.append_nil]
    obtain ⟨hrel, hevt⟩ | ⟨hrel, hevt⟩ := agentStep_debouncer tick ht
    · rw [Evt.cleared_of_unarmed unarmed] at hevt
      exact ⟨hevt, by rw [hrel]⟩
    · exact ⟨.inr hevt, by simp [hrel]⟩

/-- A run from a state that is not armed has SETTLE_TICKS released samples in a row, those counted before it included;
or EVT stays or is as after reset. -/
theorem runAgents_unarmed {c : Config} {xs : List AgentStep} {s t : State} (unarmed : s.evt.armed = false)
    (h : runAgents c xs s = .next t) :
    List.replicate c.settleTicks 0 <:+: s.counted ++ tickSamples c xs s ∨ t.evt = s.evt ∨ t.evt = Evt.reset := by
  induction xs generalizing s with
  | nil =>
    obtain rfl : s = t := by simpa [runAgents] using h
    exact .inr (.inl rfl)
  | cons a xs ih =>
    obtain ⟨u, hu, hrun⟩ := runAgents_cons.mp h
    have samples : s.counted ++ tickSamples c (a :: xs) s = (s.counted ++ sampleOf a s) ++ tickSamples c xs u := by
      rw [tickSamples_cons hu, sampleOf, List.append_assoc]
    rw [samples]
    obtain ⟨rfl, released, full⟩ | ⟨hevt, counted⟩ := stepAs_unarmed unarmed hu
    · have all : s.counted ++ sampleOf .tick s = List.replicate (s.rel.toNat + 1) 0 := by
        simp [State.counted, sampleOf, released, List.replicate_succ']
      have settled : List.replicate c.settleTicks 0 <:+: List.replicate (s.rel.toNat + 1) (0 : Byte) :=
        ⟨[], List.replicate (s.rel.toNat + 1 - c.settleTicks) 0, by simp [List.replicate_append_replicate, full]⟩
      exact .inl (all ▸ settled.trans (List.prefix_append ..).isInfix)
    · have unarmed' : u.evt.armed = false := by
        obtain e | e := hevt <;> rw [e]
        · exact unarmed
        · rfl
      obtain settled | e | e := ih unarmed' hrun
      · obtain ⟨pre, e⟩ := counted
        refine .inl (settled.trans ⟨pre, [], ?_⟩)
        rw [← e, List.append_nil, List.append_assoc]
      · exact .inr (e ▸ hevt)
      · exact .inr (.inr e)

/-- When no sample has been counted, a run after which EVT is neither as before nor as after reset has the released
samples in it. -/
theorem exists_settled_of_runAgents {c : Config} {xs : List AgentStep} {s t : State} (unarmed : s.evt.armed = false)
    (rel : s.rel = 0) (h : runAgents c xs s = .next t) (moved : t.evt ≠ s.evt) (fresh : t.evt ≠ Evt.reset) :
    ∃ pre post, tickSamples c xs s = pre ++ List.replicate c.settleTicks 0 ++ post := by
  have uncounted : s.counted = [] := by simp [State.counted, rel]
  obtain ⟨pre, post, e⟩ | e | e := runAgents_unarmed unarmed h
  · exact ⟨pre, post, by simpa [uncounted] using e.symm⟩
  · exact absurd e moved
  · exact absurd e fresh

/-! ### Events -/

/-- A tick at which an event fires, latched or dropped, leaves the debouncer not armed and nothing counted. -/
theorem stepAs_tick_fires {c : Config} {s t : State} (armed : s.evt.armed = true) (active : s.pins ≠ 0)
    (h : stepAs c .tick s = .next t) : t.evt.armed = false ∧ t.rel = 0 := by
  obtain ⟨t, ht, rfl⟩ := stepAs_cases h
  obtain rfl : tickStep c s = t := by simpa [agentStep] using ht
  rw [State.closeRun_evt, State.closeRun_rel]
  cases waiting : s.evt.evtv
  · simp [tickStep_latches armed active waiting]
  · simp [tickStep_drops armed active waiting]

/-- Settles O35: the event leaves the debouncer not armed, so a run that arms it again changes EVT. -/
theorem eventsAreSeparatedByRelease : Obligations.EventsAreSeparatedByRelease := by
  intro c xs s t u armed active tick run rearmed
  obtain ⟨unarmed, rel⟩ := stepAs_tick_fires armed active tick
  have armed_ne (e : Evt) (he : e.armed = false) : u.evt ≠ e := fun h => by simp [h, he] at rearmed
  exact exists_settled_of_runAgents unarmed rel run (armed_ne _ unarmed) (armed_ne _ rfl)

/-- Settles O36: a step with an input active is not the tick that arms, so EVT stays or is as after reset. -/
theorem inputHeldFromResetGivesNoEvent : Obligations.InputHeldFromResetGivesNoEvent := by
  constructor
  · intro c a s t unarmed active h
    obtain ⟨-, released, -⟩ | ⟨e | e, -⟩ := stepAs_unarmed unarmed h
    · exact absurd released active
    · simp [e, unarmed]
    · simp [e, Evt.reset]
  · intro c xs s t evt rel run changed
    exact exists_settled_of_runAgents (by rw [evt]; rfl) rel run (by rwa [evt]) changed

end Sys2Proof.Machine

/-! # Proofs: faults, marks and the end of a run (60_exceptions.md) -/

namespace Sys2Proof.Machine

/-! ### What is recorded stays recorded -/

/-- Whether a mark is recorded, by its name (R144). -/
def Marks.has (m : Marks) : Mark → Bool
  | .noTransaction => m.noTransaction
  | .dirMismatch => m.dirMismatch
  | .noMasterAck => m.noMasterAck
  | .noRxToAck => m.noRxToAck
  | .busHeldAtEnd => m.busHeldAtEnd

/-- Adding a mark adds that mark alone, and only when its condition holds. -/
theorem Marks.has_addIf (b : Bool) (k j : Mark) (m : Marks) :
    (m.addIf b k).has j = (m.has j || (decide (j = k) && b)) := by
  cases k <;> cases j <;> simp [Marks.has, Marks.addIf]

/-- Every fault and every mark recorded in `s` is recorded in `t`. -/
structure RecordKept (s t : State) : Prop where
  faults : ∀ x ∈ s.faults, x ∈ t.faults
  marks : ∀ k, s.marks.has k = true → t.marks.has k = true

theorem RecordKept.of_eq {s t : State} (hf : t.faults = s.faults) (hm : t.marks = s.marks) : RecordKept s t :=
  ⟨by simp [hf], by simp [hm]⟩

theorem RecordKept.trans {s t u : State} (st : RecordKept s t) (tu : RecordKept t u) : RecordKept s u :=
  ⟨fun x h => tu.faults x (st.faults x h), fun k h => tu.marks k (st.marks k h)⟩

/-- A step may then change anything but the faults and the marks. -/
theorem RecordKept.congr {s t u : State} (st : RecordKept s t) (hf : u.faults = t.faults) (hm : u.marks = t.marks) :
    RecordKept s u :=
  st.trans (.of_eq hf hm)

theorem recordFault_recordKept (f : FaultReason) (s : State) : RecordKept s (s.recordFault f) :=
  ⟨fun x old => (mem_recordFault_faults f x s).mpr (.inr old), fun _ old => old⟩

theorem markIf_recordKept (b : Bool) (k : Mark) (s : State) : RecordKept s (s.markIf b k) :=
  ⟨fun _ old => old, fun j old => by simp [Marks.has_addIf, old]⟩

theorem checkMasterAck_recordKept (s : State) : RecordKept s s.checkMasterAck :=
  (markIf_recordKept s.mackp .noMasterAck s).congr rfl rfl

/-- The marks of a receive and of an accepted TRN write are only added (R95, R103). -/
theorem transferMarks_recordKept (b1 b2 : Bool) (s : State) :
    RecordKept s ((s.markIf b1 .noTransaction).markIf b2 .dirMismatch).checkMasterAck :=
  ((markIf_recordKept b1 .noTransaction s).trans (markIf_recordKept b2 .dirMismatch _)).trans
    (checkMasterAck_recordKept _)

/-- A command only adds marks (R92 to R96). -/
theorem startCommand_recordKept (k : Command) (s : State) : RecordKept s (startCommand k s) := by
  cases k with
  | start => exact (checkMasterAck_recordKept s).congr rfl rfl
  | restart => exact (checkMasterAck_recordKept s).congr rfl rfl
  | stop => exact (checkMasterAck_recordKept s).congr rfl rfl
  | recv => exact (transferMarks_recordKept _ _ s).congr rfl rfl
  | ack => exact (markIf_recordKept _ .noRxToAck s).congr rfl rfl

theorem conWrite_recordKept (f : AliasFn) (d : Word) (s : State) : RecordKept s (conWrite f d s) := by
  obtain e | e | ⟨-, k, -, e⟩ := conWrite_cases f d s
  · exact .of_eq (by rw [e]) (by rw [e])
  · exact .of_eq (by rw [e]; rfl) (by rw [e]; rfl)
  · have acked : RecordKept s { s with con.ackdt := conAckdt f d s.con } := .of_eq rfl rfl
    rw [e]
    exact acked.trans (startCommand_recordKept k _)

theorem trnWrite_recordKept (d : Word) (s : State) : RecordKept s (trnWrite d s) := by
  rw [trnWrite]
  split
  · exact .of_eq rfl rfl
  · exact (transferMarks_recordKept _ _ s).congr rfl rfl

/-- Only a write of CON or TRN touches the marks, and no instruction the faults (R143, R144). -/
theorem exec_recordKept {i : Instr} {s t : State} (h : exec i s = .next t) : RecordKept s t := by
  cases exec_effect h with
  | writeCon f d => exact conWrite_recordKept f d s
  | writeTrn d => exact trnWrite_recordKept d s
  | read | readRcv | readTick | readEvt | writeStat | writeRaw | writeUnit | writeTickcnt => exact .of_eq rfl rfl

/-- The BUS agent records nothing (R143, R144). -/
theorem busStep_recordKept {c : Config} {d : BusDraw} {s t : State} (h : busStep c d s = .next t) :
    RecordKept s t := by
  obtain ⟨-, rfl⟩ | ⟨-, rfl⟩ | ⟨-, rfl⟩ | ⟨-, rfl⟩ | ⟨-, rfl⟩ | ⟨-, rfl⟩ | ⟨-, rfl⟩ := busStep_cases h <;>
    exact .of_eq rfl rfl

/-- Every agent step but a reset keeps the record. -/
theorem agentStep_recordKept {c : Config} {a : AgentStep} {s t : State} (hreset : a ≠ .reset)
    (h : agentStep c a s = .next t) : RecordKept s t := by
  obtain ⟨i, h', _, u, -, hu, rfl⟩ | ⟨f, rfl⟩ | ⟨_, rfl⟩ | ⟨d, -, hb⟩ | ⟨-, rfl⟩ | ⟨v, -, rfl⟩ | ⟨e, -⟩ :=
    agentStep_cases h
  · have moved : RecordKept s { s with host := h' } := .of_eq rfl rfl
    exact (moved.trans (exec_recordKept hu)).congr rfl rfl
  · exact recordFault_recordKept f s
  · exact .of_eq rfl rfl
  · exact busStep_recordKept hb
  · rw [tickStep_frame]
    exact .of_eq rfl rfl
  · exact .of_eq rfl rfl
  · exact absurd e hreset

/-! ### The end of a run (R145) -/

/-- Where the run ends, S = 1 is recorded. -/
theorem closeRun_of_end {s : State} (returned : s.host.hasReturned = true) (idle : s.idle = true)
    (goes : s.ended = false) :
    s.closeRun = { s with ended := true, marks.busHeldAtEnd := s.marks.busHeldAtEnd || s.stat.s } := by
  rw [State.closeRun, if_pos (by simp [returned, idle, goes])]
  rfl

/-- Elsewhere nothing is added. -/
theorem closeRun_of_not_end {s : State} (h : s.host.hasReturned = false ∨ s.idle = false ∨ s.ended = true) :
    s.closeRun = s := by
  obtain e | ⟨returned, idle, goes, -⟩ := closeRun_cases s
  · exact e
  · simp [returned, idle, goes] at h

theorem closeRun_recordKept (s : State) : RecordKept s s.closeRun := by
  rw [State.closeRun]
  split
  · exact (markIf_recordKept _ .busHeldAtEnd s).congr rfl rfl
  · exact .of_eq rfl rfl

/-! ### The obligations -/

/-- Settles O49: the agent's step and the closing of the run keep the record, and the five marks are those of R144. -/
theorem faultsAndMarksAreNeverCleared : Obligations.FaultsAndMarksAreNeverCleared := by
  intro s t noReset h
  obtain ⟨a, rest, u, ha, hu, rfl⟩ := stepWith_cases h
  have agent : RecordKept { s with agenda := rest } u := agentStep_recordKept (fun e => noReset rest (e ▸ ha)) hu
  obtain ⟨faults, marks⟩ := agent.trans (closeRun_recordKept u)
  exact ⟨faults, marks .noTransaction, marks .dirMismatch, marks .noMasterAck, marks .noRxToAck,
    marks .busHeldAtEnd⟩

/-- Settles O53: each instruction has its row of `ExecEffect`, which names the next state. -/
theorem everyInstructionAnswersANextState : Obligations.EveryInstructionAnswersANextState := exec_next

/-- Settles O58: a step closes the run on the state its agent step brings. -/
theorem endOfRunRecordsAHeldBus : Obligations.EndOfRunRecordsAHeldBus := by
  intro c a rest s u ha hu
  have closes : stepWith c s = .next u.closeRun := by rw [stepWith_cons ha, hu, onNext_next]
  exact ⟨fun returned idle goes => by rw [closes, closeRun_of_end returned idle goes],
    fun elsewhere => by rw [closes, closeRun_of_not_end elsewhere]⟩

end Sys2Proof.Machine

/-! # Proofs: the reset of the block (70_reset_and_hazards.md) -/

namespace Sys2Proof.Machine

/-- A reset leaves the command bits and TRSTAT of the reset state, in which the engine is idle (R31, R47). -/
@[simp] theorem State.resetBlock_idle (s : State) : s.resetBlock.idle = true :=
  (State.idle_congr State.reset s.resetBlock rfl rfl).trans (by decide)

/-- The pins and the host's side are all that a reset keeps: with these as in the reset state, nothing of the state
before it is left (R47, R154; log 16). -/
theorem State.resetBlock_keeps_only (s : State) :
    { s.resetBlock with pins := State.reset.pins, readData := none, host := .noProgram, ended := false, agenda := [] } =
      State.reset := rfl

/-- An idle engine has no BUS step (R106). -/
theorem agentStep_bus_ne_next_of_idle {s : State} (idle : s.idle = true) (c : Config) (b : BusDraw) (u : State) :
    agentStep c (.bus b) s ≠ .next u :=
  fun enabled => (agentStep_bus_enabled_iff c b s).mp ⟨u, enabled⟩ (s.mode_idle_iff.mpr idle)

/-- Settles O47: the next state is `resetBlock`'s, whose engine is idle and so has no BUS step. -/
theorem resetAbandonsAPendingOperation : Obligations.ResetAbandonsAPendingOperation := fun c s =>
  ⟨s.resetBlock, rfl, s.resetBlock_idle, s.resetBlock_trace, agentStep_bus_ne_next_of_idle s.resetBlock_idle c,
    s.resetBlock_pins, s.resetBlock_keeps_only⟩

end Sys2Proof.Machine
